-- ==== Sys2Proof/Word.lean ====
section
/-! DEFINITION. The machine's bit-vector types (00_scope.md R7, R10, R11): every value is an unsigned
word of a stated width; there is no signed quantity (R11). -/

namespace Sys2Proof

/-- An 8-bit value: a general register, a timer, SP, a memory byte, an immediate `kk` (00_scope.md R7). -/
abbrev Byte := BitVec 8

/-- A 16-bit value: `I`, `PC`, a stack entry, an opcode (00_scope.md R7). -/
abbrev Word := BitVec 16

/-- A 4-bit opcode field: a register index `x` or `y`, or the sprite height `n` (30_encoding.md R95, R96, R98). -/
abbrev Nibble := BitVec 4

/-- The 12-bit address field `nnn` (30_encoding.md R94). -/
abbrev Addr12 := BitVec 12

end Sys2Proof
end

