-- ==== Sys2Proof/Syntax.lean ====
section
/-! DEFINITION. The decoder's 36 tags (30_encoding.md R100), one constructor per row of spec/opcode_table.json,
in the table's order; each carries exactly the fields R100 names (92_eei_decisions.md D28). -/

namespace Sys2Proof

/-- An instruction as the decoder delivers it (30_encoding.md R100). -/
inductive Instr
  /-- CLS, 00E0 -/
  | cls
  /-- RET, 00EE -/
  | ret
  /-- SYS nnn, 0nnn -/
  | sys (nnn : Addr12)
  /-- JP nnn, 1nnn -/
  | jp (nnn : Addr12)
  /-- CALL nnn, 2nnn -/
  | call (nnn : Addr12)
  /-- SE Vx,kk, 3xkk -/
  | seImm (x : Nibble) (kk : Byte)
  /-- SNE Vx,kk, 4xkk -/
  | sneImm (x : Nibble) (kk : Byte)
  /-- SE Vx,Vy, 5xy0 -/
  | seReg (x y : Nibble)
  /-- LD Vx,kk, 6xkk -/
  | ldImm (x : Nibble) (kk : Byte)
  /-- ADD Vx,kk, 7xkk -/
  | addImm (x : Nibble) (kk : Byte)
  /-- LD Vx,Vy, 8xy0 -/
  | ldReg (x y : Nibble)
  /-- OR Vx,Vy, 8xy1 -/
  | or (x y : Nibble)
  /-- AND Vx,Vy, 8xy2 -/
  | and (x y : Nibble)
  /-- XOR Vx,Vy, 8xy3 -/
  | xor (x y : Nibble)
  /-- ADD Vx,Vy, 8xy4 -/
  | addReg (x y : Nibble)
  /-- SUB Vx,Vy, 8xy5 -/
  | sub (x y : Nibble)
  /-- SHR Vx, 8xy6; `y` is decoded and ignored -/
  | shr (x y : Nibble)
  /-- SUBN Vx,Vy, 8xy7 -/
  | subn (x y : Nibble)
  /-- SHL Vx, 8xyE; `y` is decoded and ignored -/
  | shl (x y : Nibble)
  /-- SNE Vx,Vy, 9xy0 -/
  | sneReg (x y : Nibble)
  /-- LD I,nnn, Annn -/
  | ldI (nnn : Addr12)
  /-- JP V0,nnn, Bnnn -/
  | jpV0 (nnn : Addr12)
  /-- RND Vx,kk, Cxkk -/
  | rnd (x : Nibble) (kk : Byte)
  /-- DRW Vx,Vy,n, Dxyn -/
  | drw (x y n : Nibble)
  /-- SKP Vx, Ex9E -/
  | skp (x : Nibble)
  /-- SKNP Vx, ExA1 -/
  | sknp (x : Nibble)
  /-- LD Vx,DT, Fx07 -/
  | ldVxDt (x : Nibble)
  /-- LD Vx,K, Fx0A -/
  | ldVxK (x : Nibble)
  /-- LD DT,Vx, Fx15 -/
  | ldDtVx (x : Nibble)
  /-- LD ST,Vx, Fx18 -/
  | ldStVx (x : Nibble)
  /-- ADD I,Vx, Fx1E -/
  | addI (x : Nibble)
  /-- LD F,Vx, Fx29 -/
  | ldF (x : Nibble)
  /-- LD B,Vx, Fx33 -/
  | ldB (x : Nibble)
  /-- LD [I],Vx, Fx55 -/
  | stRegs (x : Nibble)
  /-- LD Vx,[I], Fx65 -/
  | ldRegs (x : Nibble)
  /-- UNKNOWN, "an explicit 'unknown' variant carrying the raw opcode" -/
  | unknown (raw : Word)
  deriving DecidableEq, Repr

end Sys2Proof
end

