-- ==== Sys2Proof/Decode.lean ====
section
/-! DEFINITION. Field extraction (30_encoding.md R94 to R99), the dispatch algorithm (R101 to R110), the
UNKNOWN space (R116), and the encoder written from the opcode map (R112). The sub-opcode numbers of classes
0x8, 0xE and 0xF are the ones the spec supplies from general knowledge (log entry 9). -/

namespace Sys2Proof

/-! ### Fields -/

/-- The class nibble `c = op[15:12]` (30_encoding.md R91, R101). -/
def classOf (op : Word) : Nibble := op.extractLsb' 12 4

/-- `nnn(op) = op[11:0]` (30_encoding.md R94). -/
def nnnOf (op : Word) : Addr12 := op.extractLsb' 0 12

/-- `x(op) = op[11:8]` (30_encoding.md R95). -/
def xOf (op : Word) : Nibble := op.extractLsb' 8 4

/-- `y(op) = op[7:4]` (30_encoding.md R96). -/
def yOf (op : Word) : Nibble := op.extractLsb' 4 4

/-- `kk(op) = op[7:0]` (30_encoding.md R97). -/
def kkOf (op : Word) : Byte := op.extractLsb' 0 8

/-- `n(op) = op[3:0]` (30_encoding.md R98). -/
def nOf (op : Word) : Nibble := op.extractLsb' 0 4

/-! ### The dispatch algorithm -/

/-- Class 0x0: CLS and RET on the full 16 bits, everything else SYS (30_encoding.md R102). -/
def decodeClass0 (op : Word) : Instr :=
  if op = 0x00E0 then .cls else if op = 0x00EE then .ret else .sys (nnnOf op)

/-- Class 0x8: the low nibble selects the operation (30_encoding.md R106). -/
def decodeClass8 (op : Word) : Instr :=
  match (nOf op).toNat with
  | 0x0 => .ldReg (xOf op) (yOf op)
  | 0x1 => .or (xOf op) (yOf op)
  | 0x2 => .and (xOf op) (yOf op)
  | 0x3 => .xor (xOf op) (yOf op)
  | 0x4 => .addReg (xOf op) (yOf op)
  | 0x5 => .sub (xOf op) (yOf op)
  | 0x6 => .shr (xOf op) (yOf op)
  | 0x7 => .subn (xOf op) (yOf op)
  | 0xE => .shl (xOf op) (yOf op)
  | _ => .unknown op

/-- Class 0xE: the low byte selects SKP or SKNP (30_encoding.md R109). -/
def decodeClassE (op : Word) : Instr :=
  if kkOf op = 0x9E then .skp (xOf op)
  else if kkOf op = 0xA1 then .sknp (xOf op)
  else .unknown op

/-- Class 0xF: the low byte selects one of nine variants (30_encoding.md R110). -/
def decodeClassF (op : Word) : Instr :=
  if kkOf op = 0x07 then .ldVxDt (xOf op)
  else if kkOf op = 0x0A then .ldVxK (xOf op)
  else if kkOf op = 0x15 then .ldDtVx (xOf op)
  else if kkOf op = 0x18 then .ldStVx (xOf op)
  else if kkOf op = 0x1E then .addI (xOf op)
  else if kkOf op = 0x29 then .ldF (xOf op)
  else if kkOf op = 0x33 then .ldB (xOf op)
  else if kkOf op = 0x55 then .stRegs (xOf op)
  else if kkOf op = 0x65 then .ldRegs (xOf op)
  else .unknown op

/-- The decoder (30_encoding.md R101): pure, total, deterministic (R111). -/
def decode (op : Word) : Instr :=
  match (classOf op).toNat with
  | 0x0 => decodeClass0 op
  | 0x1 => .jp (nnnOf op)
  | 0x2 => .call (nnnOf op)
  | 0x3 => .seImm (xOf op) (kkOf op)
  | 0x4 => .sneImm (xOf op) (kkOf op)
  | 0x5 => if nOf op = 0 then .seReg (xOf op) (yOf op) else .unknown op
  | 0x6 => .ldImm (xOf op) (kkOf op)
  | 0x7 => .addImm (xOf op) (kkOf op)
  | 0x8 => decodeClass8 op
  | 0x9 => if nOf op = 0 then .sneReg (xOf op) (yOf op) else .unknown op
  | 0xA => .ldI (nnnOf op)
  | 0xB => .jpV0 (nnnOf op)
  | 0xC => .rnd (xOf op) (kkOf op)
  | 0xD => .drw (xOf op) (yOf op) (nOf op)
  | 0xE => decodeClassE op
  | _ => decodeClassF op

/-- The UNKNOWN space: exactly the words of the table of 30_encoding.md R116. -/
def isUnknownWord (op : Word) : Bool :=
  (classOf op == 0x5 && nOf op != 0) ||
  (classOf op == 0x9 && nOf op != 0) ||
  (classOf op == 0x8 && [0x8, 0x9, 0xA, 0xB, 0xC, 0xD, 0xF].contains (nOf op)) ||
  (classOf op == 0xE && !([0x9E, 0xA1].contains (kkOf op))) ||
  (classOf op == 0xF && !([0x07, 0x0A, 0x15, 0x18, 0x1E, 0x29, 0x33, 0x55, 0x65].contains (kkOf op)))

/-! ### The opcode map, the spec's second statement of the decoder -/

/-- A row of the complete opcode map: `op` is the instruction exactly when `op & mask = value`, rows tried from
top to bottom (30_encoding.md R112). -/
structure OpcodeRow where
  value : Word
  mask : Word
  build : Word → Instr

/-- Classes 0x0 to 0x7 (30_encoding.md R112). -/
def opcodeMapLow : List OpcodeRow := [
  ⟨0x00E0, 0xFFFF, fun _ => .cls⟩,
  ⟨0x00EE, 0xFFFF, fun _ => .ret⟩,
  ⟨0x0000, 0xF000, fun op => .sys (nnnOf op)⟩,
  ⟨0x1000, 0xF000, fun op => .jp (nnnOf op)⟩,
  ⟨0x2000, 0xF000, fun op => .call (nnnOf op)⟩,
  ⟨0x3000, 0xF000, fun op => .seImm (xOf op) (kkOf op)⟩,
  ⟨0x4000, 0xF000, fun op => .sneImm (xOf op) (kkOf op)⟩,
  ⟨0x5000, 0xF00F, fun op => .seReg (xOf op) (yOf op)⟩,
  ⟨0x6000, 0xF000, fun op => .ldImm (xOf op) (kkOf op)⟩,
  ⟨0x7000, 0xF000, fun op => .addImm (xOf op) (kkOf op)⟩]

/-- Classes 0x8 to 0xD (30_encoding.md R112). -/
def opcodeMapMid : List OpcodeRow := [
  ⟨0x8000, 0xF00F, fun op => .ldReg (xOf op) (yOf op)⟩,
  ⟨0x8001, 0xF00F, fun op => .or (xOf op) (yOf op)⟩,
  ⟨0x8002, 0xF00F, fun op => .and (xOf op) (yOf op)⟩,
  ⟨0x8003, 0xF00F, fun op => .xor (xOf op) (yOf op)⟩,
  ⟨0x8004, 0xF00F, fun op => .addReg (xOf op) (yOf op)⟩,
  ⟨0x8005, 0xF00F, fun op => .sub (xOf op) (yOf op)⟩,
  ⟨0x8006, 0xF00F, fun op => .shr (xOf op) (yOf op)⟩,
  ⟨0x8007, 0xF00F, fun op => .subn (xOf op) (yOf op)⟩,
  ⟨0x800E, 0xF00F, fun op => .shl (xOf op) (yOf op)⟩,
  ⟨0x9000, 0xF00F, fun op => .sneReg (xOf op) (yOf op)⟩,
  ⟨0xA000, 0xF000, fun op => .ldI (nnnOf op)⟩,
  ⟨0xB000, 0xF000, fun op => .jpV0 (nnnOf op)⟩,
  ⟨0xC000, 0xF000, fun op => .rnd (xOf op) (kkOf op)⟩,
  ⟨0xD000, 0xF000, fun op => .drw (xOf op) (yOf op) (nOf op)⟩]

/-- Classes 0xE and 0xF, and "anything else" (30_encoding.md R112). -/
def opcodeMapHigh : List OpcodeRow := [
  ⟨0xE09E, 0xF0FF, fun op => .skp (xOf op)⟩,
  ⟨0xE0A1, 0xF0FF, fun op => .sknp (xOf op)⟩,
  ⟨0xF007, 0xF0FF, fun op => .ldVxDt (xOf op)⟩,
  ⟨0xF00A, 0xF0FF, fun op => .ldVxK (xOf op)⟩,
  ⟨0xF015, 0xF0FF, fun op => .ldDtVx (xOf op)⟩,
  ⟨0xF018, 0xF0FF, fun op => .ldStVx (xOf op)⟩,
  ⟨0xF01E, 0xF0FF, fun op => .addI (xOf op)⟩,
  ⟨0xF029, 0xF0FF, fun op => .ldF (xOf op)⟩,
  ⟨0xF033, 0xF0FF, fun op => .ldB (xOf op)⟩,
  ⟨0xF055, 0xF0FF, fun op => .stRegs (xOf op)⟩,
  ⟨0xF065, 0xF0FF, fun op => .ldRegs (xOf op)⟩,
  ⟨0x0000, 0x0000, fun op => .unknown op⟩]

/-- The complete opcode map (30_encoding.md R112). -/
def opcodeMap : List OpcodeRow := opcodeMapLow ++ opcodeMapMid ++ opcodeMapHigh

/-- The first row that matches decides; the last row matches every word (30_encoding.md R112). -/
def decodeByMap (op : Word) : Option Instr :=
  (opcodeMap.find? (fun r => op &&& r.mask == r.value)).map (fun r => r.build op)

/-! ### Bytes: one word is two bytes, the high byte at the lower address -/

/-- Why a byte sequence holds no instruction. -/
inductive DecodeReject
  /-- fewer than the two bytes every instruction has (30_encoding.md R90) -/
  | truncated
  deriving DecidableEq, Repr

/-- The word of two bytes in memory order: `op[15:8]` is the first (20_memory.md R62). -/
def wordOfBytes (hi lo : Byte) : Word := hi ++ lo

/-- The two bytes of a word in memory order (20_memory.md R62). -/
def bytesOfWord (op : Word) : List Byte := [op.extractLsb' 8 8, op.extractLsb' 0 8]

/-- Decode the instruction at the head of a byte sequence, with the bytes that follow it. Total on any
bytes: only a sequence shorter than two bytes is rejected (30_encoding.md R90, R111). -/
def decodeBytes : List Byte → Except DecodeReject (Instr × List Byte)
  | hi :: lo :: rest => .ok (decode (wordOfBytes hi lo), rest)
  | _ => .error .truncated

/-- The instruction the decoder reads from the table word `w` of `nbits` bits (every row has 16). -/
def decodeTableWord (nbits w : Nat) : Option Instr :=
  match decodeBytes (bytesOfWord (BitVec.ofNat 16 (w % 2 ^ nbits))) with
  | .ok (i, _) => some i
  | .error _ => none

/-! ### The encoder -/

/-- Format NNN: class, nnn (30_encoding.md R91). -/
def wordNNN (c : Nibble) (nnn : Addr12) : Word := c ++ nnn

/-- Formats XKK and XSS: class, x, then the low byte, an immediate or a sub-opcode (30_encoding.md R91). -/
def wordXKK (c x : Nibble) (kk : Byte) : Word := c ++ x ++ kk

/-- Formats XYS and XYN: class, x, y, then the low nibble, a sub-opcode or `n` (30_encoding.md R91). -/
def wordXYN (c x y n : Nibble) : Word := c ++ x ++ y ++ n

/-- The word of an instruction (30_encoding.md R91, R112). Any `y` encodes SHR and SHL (R181, R183). -/
def encode : Instr → Word
  | .cls => 0x00E0
  | .ret => 0x00EE
  | .sys nnn => wordNNN 0x0 nnn
  | .jp nnn => wordNNN 0x1 nnn
  | .call nnn => wordNNN 0x2 nnn
  | .seImm x kk => wordXKK 0x3 x kk
  | .sneImm x kk => wordXKK 0x4 x kk
  | .seReg x y => wordXYN 0x5 x y 0x0
  | .ldImm x kk => wordXKK 0x6 x kk
  | .addImm x kk => wordXKK 0x7 x kk
  | .ldReg x y => wordXYN 0x8 x y 0x0
  | .or x y => wordXYN 0x8 x y 0x1
  | .and x y => wordXYN 0x8 x y 0x2
  | .xor x y => wordXYN 0x8 x y 0x3
  | .addReg x y => wordXYN 0x8 x y 0x4
  | .sub x y => wordXYN 0x8 x y 0x5
  | .shr x y => wordXYN 0x8 x y 0x6
  | .subn x y => wordXYN 0x8 x y 0x7
  | .shl x y => wordXYN 0x8 x y 0xE
  | .sneReg x y => wordXYN 0x9 x y 0x0
  | .ldI nnn => wordNNN 0xA nnn
  | .jpV0 nnn => wordNNN 0xB nnn
  | .rnd x kk => wordXKK 0xC x kk
  | .drw x y n => wordXYN 0xD x y n
  | .skp x => wordXKK 0xE x 0x9E
  | .sknp x => wordXKK 0xE x 0xA1
  | .ldVxDt x => wordXKK 0xF x 0x07
  | .ldVxK x => wordXKK 0xF x 0x0A
  | .ldDtVx x => wordXKK 0xF x 0x15
  | .ldStVx x => wordXKK 0xF x 0x18
  | .addI x => wordXKK 0xF x 0x1E
  | .ldF x => wordXKK 0xF x 0x29
  | .ldB x => wordXKK 0xF x 0x33
  | .stRegs x => wordXKK 0xF x 0x55
  | .ldRegs x => wordXKK 0xF x 0x65
  | .unknown raw => raw

/-- The two bytes of an instruction in memory order (30_encoding.md R90, 20_memory.md R62). -/
def encodeBytes (i : Instr) : List Byte := bytesOfWord (encode i)

end Sys2Proof
end

