-- ==== Sys2Proof/Config.lean ====
section
/-! DEFINITION. What the spec leaves open (00_scope.md R9): the two parameters a model takes as an argument
(held in `State.params`, so that every statement ranges over them), and the free values, which have no body. -/

namespace Sys2Proof

/-- UNKNOWN_POLICY, "whether an UNKNOWN opcode halts the machine" (00_scope.md R9, 92_eei_decisions.md D19). -/
inductive UnknownPolicy
  /-- executing UNKNOWN puts the machine into HALTED -/
  | fatal
  /-- executing UNKNOWN reports DecodeError and the machine goes on -/
  | nop
  deriving DecidableEq, Repr

/-- The open parameters of the machine (00_scope.md R9), fixed for a run: no step and no Host move
writes them. Their values in `State.reset` are log entries 4 and 5. -/
structure Params where
  /-- UNKNOWN_POLICY -/
  unknownPolicy : UnknownPolicy
  /-- FONT_ROM, the 80 glyph bytes that reset writes at FONT_BASE (10_state.md R45) -/
  fontRom : Vector Byte 80
  deriving DecidableEq, Repr

/-- FREE VALUE (log entry 6). `Config.drawByte k` is the `k`-th byte the environment supplies as
`draw8()`: "a fresh unconstrained 8-bit value per execution of RND" (00_scope.md R9, R15; 42_alu.md R184). -/
opaque Config.drawByte : Nat → Byte

/-- FREE VALUE (log entry 1). PC after construction or reset: "PC undefined until a ROM is loaded"
(10_state.md R49, R57; 70_reset_and_hazards.md R293). No step reads it before a Load has replaced it. -/
opaque Config.pcAtReset : Word

end Sys2Proof
end

