-- ==== Sys2Proof/Machine/Font.lean ====
section
/-! DEFINITION. The font: where it lies, the size of a glyph, and the default of the parameter FONT_ROM
(00_scope.md R8, R9; 10_state.md R44, R45; 92_eei_decisions.md D17). -/

namespace Sys2Proof.Machine

/-- FONT_BASE (10_state.md R44). -/
def fontBase : Nat := 0x000

/-- GLYPH_SIZE, bytes per glyph (00_scope.md R8). -/
def glyphSize : Nat := 5

/-- The default glyph table of 10_state.md R45, glyph `d` at `5 * d`. PRESUMED, unsafe: the spec takes the bytes
from general knowledge (log entry 5); no statement rests on them. -/
def fontRomDefault : Vector Byte 80 := #v[
  0xF0, 0x90, 0x90, 0x90, 0xF0,   0x20, 0x60, 0x20, 0x20, 0x70,
  0xF0, 0x10, 0xF0, 0x80, 0xF0,   0xF0, 0x10, 0xF0, 0x10, 0xF0,
  0x90, 0x90, 0xF0, 0x10, 0x10,   0xF0, 0x80, 0xF0, 0x10, 0xF0,
  0xF0, 0x80, 0xF0, 0x90, 0xF0,   0xF0, 0x10, 0x20, 0x40, 0x40,
  0xF0, 0x90, 0xF0, 0x90, 0xF0,   0xF0, 0x90, 0xF0, 0x10, 0xF0,
  0xF0, 0x90, 0xF0, 0x90, 0x90,   0xE0, 0x90, 0xE0, 0x90, 0xE0,
  0xF0, 0x80, 0x80, 0x80, 0xF0,   0xE0, 0x90, 0x90, 0x90, 0xE0,
  0xF0, 0x80, 0xF0, 0x80, 0xF0,   0xF0, 0x80, 0xF0, 0x80, 0x80]

/-- The open parameters at the values the spec recommends or supplies: FATAL (00_scope.md R9, DESIGN CHOICE,
unsafe, log entry 4) and the default font (log entry 5). -/
def defaultParams : Params := { unknownPolicy := .fatal, fontRom := fontRomDefault }

end Sys2Proof.Machine
end

