-- ==== Sys2Proof/Machine/State.lean ====
section
/-! DEFINITION. The state of the machine (the tuple at the head of 10_state.md), plain data, and the state
after reset (10_state.md R57, 70_reset_and_hazards.md R290). -/

namespace Sys2Proof.Machine

/-- MODE, the run state (10_state.md R35). -/
inductive RunMode
  /-- RUNNING -/
  | running
  /-- BLOCKED: the last step was an `LD Vx,K` that found no key-press transition -/
  | blocked
  /-- HALTED: a fatal error was raised -/
  | halted
  deriving DecidableEq, Repr

/-- The kind of a StackError (60_exceptions.md R252). -/
inductive StackKind
  /-- CALL on a full stack -/
  | overflow
  /-- RET on an empty stack -/
  | underflow
  deriving DecidableEq, Repr

/-- The synchronous exceptions a step can raise (60_exceptions.md R250). The address of a MemoryFault is a
mathematical integer (20_memory.md R61). -/
inductive CoreError
  /-- DecodeError(raw) -/
  | decodeError (raw : Word)
  /-- StackError(kind) -/
  | stackError (kind : StackKind)
  /-- MemoryFault(addr) -/
  | memoryFault (addr : Nat)
  deriving DecidableEq, Repr

/-- The status a step returns (10_state.md R38). -/
inductive Status
  /-- OK -/
  | ok
  /-- BLOCKED -/
  | blocked
  /-- the exception the step raised, or the stored one of a halted machine -/
  | error (e : CoreError)
  deriving DecidableEq, Repr

/-- MEM as the list of the bytes that differ from the reset contents, addresses rising (10_state.md R42).
What an unlisted address reads as is `unlistedByte` of Machine/Memory.lean. -/
abbrev Memory := List Host.Cell

/-- DISP[row][col], 32 rows of 64 cells (10_state.md R46). -/
abbrev Display := Vector (Vector Bool 64) 32

/-- The whole state of the machine (10_state.md, head). -/
structure State where
  /-- V[0..15], VF = V[15] (10_state.md R20, R21) -/
  v : Vector Byte 16
  /-- I, the address register (10_state.md R31) -/
  i : Word
  /-- PC (10_state.md R24) -/
  pc : Word
  /-- SP, the number of stack entries in use (10_state.md R32) -/
  sp : Byte
  /-- STACK[0..15], not addressable by loads or stores (10_state.md R39) -/
  stack : Vector Word 16
  /-- DT, the delay timer (10_state.md R33) -/
  dt : Byte
  /-- ST, the sound timer (10_state.md R34) -/
  st : Byte
  /-- MEM (10_state.md R42) -/
  mem : Memory
  /-- DISP (10_state.md R46) -/
  disp : Display
  /-- KEYS, bit `k` is key `k`; only the Host writes it (10_state.md R47) -/
  keys : BitVec 16
  /-- KPREV, what KEYS was when the previous step ended (10_state.md R48) -/
  kprev : BitVec 16
  /-- MODE (10_state.md R35) -/
  mode : RunMode
  /-- ERR; `none` is NONE (10_state.md R36) -/
  err : Option CoreError
  /-- LOADED, "a device of the model, not state of the hardware" (10_state.md R49, log entry 2) -/
  loaded : Bool
  /-- The model's own field: the status the last step returned, an output (10_state.md R38, log entry 7) -/
  status : Option Status
  /-- The model's own field: how many draws RND has taken, the index of the next free value
  `Config.drawByte` (00_scope.md R15, log entry 6) -/
  draws : Nat
  /-- The open parameters (00_scope.md R9, log entries 4 and 5); nothing writes them -/
  params : Params
  deriving DecidableEq, Repr

/-- Why the machine stops with a fault. The machine's own exceptions are no faults here: they are taken
(60_exceptions.md R259) and lead to a next state. -/
inductive Fault
  /-- Raised by CALL and RET with SP above 16, outside its "legal values" (10_state.md R32): the stack entry they
  would use does not exist and the spec gives no effect. No run reaches such a state (log entry 8). Safe. -/
  | stackPointerIllegal (sp : Byte)
  deriving DecidableEq, Repr

/-- Why the machine gives a step no meaning. -/
inductive Refusal
  /-- Raised by exec for an instruction that has no meaning in this model yet (none is left). Safe. -/
  | notModelled (mnemonic : String)
  /-- Raised by step before the first successful Load: "a model refuses it" (70_reset_and_hazards.md R293). Safe. -/
  | stepBeforeLoad
  deriving DecidableEq, Repr

/-- The state `Reset()` leaves (10_state.md R57, 70_reset_and_hazards.md R290), for given open parameters and a
given number of draws already taken. PC is the free value of log entry 1. -/
def State.resetWith (params : Params) (draws : Nat) : State where
  v := Vector.replicate 16 0
  i := 0
  pc := Config.pcAtReset
  sp := 0
  stack := Vector.replicate 16 0
  dt := 0
  st := 0
  mem := []
  disp := Vector.replicate 32 (Vector.replicate 64 false)
  keys := 0
  kprev := 0
  mode := .running
  err := none
  loaded := false
  status := none
  draws := draws
  params := params

/-- The machine right after construction, which is the state after reset (70_reset_and_hazards.md R291), with
the open parameters at their defaults (log entries 4 and 5) and no draw taken (log entry 6). -/
def State.reset : State := State.resetWith defaultParams 0

end Sys2Proof.Machine
end

