-- ==== Sys2Proof/Machine/Memory.lean ====
section
/-! DEFINITION. The byte array MEM (10_state.md R42, 20_memory.md R60): the reset contents, reading and
writing one byte, and the canonical form. -/

namespace Sys2Proof.Machine

/-- MEM_SIZE (00_scope.md R7). -/
def memSize : Nat := 4096

/-- What an unlisted address reads as: the reset contents, FONT_ROM at FONT_BASE and zero elsewhere
(10_state.md R44, R57). -/
def unlistedByte (p : Params) (a : Nat) : Byte :=
  if h : fontBase ≤ a ∧ a < fontBase + 80 then p.fontRom[a - fontBase]'(by omega) else 0

/-- MEM[a]: the listed byte, or what an unlisted address reads as. -/
def Memory.read (p : Params) : Memory → Nat → Byte
  | [], a => unlistedByte p a
  | (k, b) :: m, a => if k = a then b else Memory.read p m a

/-- The list without an address. -/
def Memory.erase (m : Memory) (a : Nat) : Memory := m.filter (fun c => c.1 != a)

/-- Insert a cell before the first larger or equal address. -/
def Memory.insert (a : Nat) (b : Byte) : Memory → Memory
  | [] => [(a, b)]
  | c :: m => if c.1 < a then c :: Memory.insert a b m else (a, b) :: c :: m

/-- MEM[a] <- b (20_memory.md R60): changes exactly one byte and keeps the canonical form, so writing the
reset value removes the entry. -/
def Memory.write (p : Params) (m : Memory) (a : Nat) (b : Byte) : Memory :=
  if b = unlistedByte p a then Memory.erase m a else Memory.insert a b (Memory.erase m a)

/-- Addresses strictly rising from above `lo`. -/
def Memory.rising : Option Nat → Memory → Bool
  | _, [] => true
  | none, c :: m => Memory.rising (some c.1) m
  | some lo, c :: m => decide (lo < c.1) && Memory.rising (some c.1) m

/-- The canonical form: addresses strictly rising, all inside memory, and no entry equal to what an unlisted
address reads as. -/
def Memory.wf (p : Params) (m : Memory) : Bool :=
  Memory.rising none m && m.all (fun c => decide (c.1 < memSize) && c.2 != unlistedByte p c.1)

end Sys2Proof.Machine
end

