-- ==== Sys2Proof/Machine/Operands.lean ====
section
/-! DEFINITION. The operand forms: general registers by a 4-bit index (10_state.md R20), zero-extended
fields (30_encoding.md R99), the one addressing mode `I + k` (43_index_memory.md R206), and the named
single-register updates every meaning is written with. -/

namespace Sys2Proof.Machine

/-- The index of VF (10_state.md R21). -/
def vf : Nibble := 15

/-- `V[x]` (00_scope.md R12). -/
def State.readV (s : State) (x : Nibble) : Byte := s.v[x.toNat]'x.isLt

/-- `V[x] <- b` (00_scope.md R12); no register is hardwired (10_state.md R20). -/
def State.setV (s : State) (x : Nibble) (b : Byte) : State := { s with v := s.v.set x.toNat b x.isLt }

/-- `I <- w`. -/
def State.setI (s : State) (w : Word) : State := { s with i := w }

/-- `PC <- w`. -/
def State.setPc (s : State) (w : Word) : State := { s with pc := w }

/-- `DT <- b`. -/
def State.setDt (s : State) (b : Byte) : State := { s with dt := b }

/-- `ST <- b`. -/
def State.setSt (s : State) (b : Byte) : State := { s with st := b }

/-- `DISP` as a whole. -/
def State.setDisp (s : State) (d : Display) : State := { s with disp := d }

/-- `zext_16(nnn)` (30_encoding.md R99). -/
def zextAddr (nnn : Addr12) : Word := nnn.setWidth 16

/-- `zext_16` of a byte (00_scope.md R11). -/
def zextByte (b : Byte) : Word := b.setWidth 16

/-- `trunc_8` of a mathematical integer, the unique residue modulo 256 (00_scope.md R11). -/
def trunc8 (n : Int) : Byte := BitVec.ofInt 8 n

/-- The effective address `I + k`, a mathematical integer that is never reduced (43_index_memory.md R206,
20_memory.md R61). -/
def State.ea (s : State) (k : Nat) : Nat := s.i.toNat + k

/-- `MEM[a]`. -/
def State.byteAt (s : State) (a : Nat) : Byte := Memory.read s.params s.mem a

/-- `MEM[a] <- b`, for an address that has passed the bounds check. -/
def State.setByte (s : State) (a : Nat) (b : Byte) : State :=
  { s with mem := Memory.write s.params s.mem a b }

/-- V[0], V[1], ... of the first `n` registers, in order (43_index_memory.md R204). -/
def State.firstRegs (s : State) (n : Nat) : List Byte := s.v.toList.take n

/-- The low 4 bits of a register value, the number of a key or a glyph (92_eei_decisions.md D13). -/
def lowNibble (b : Byte) : Nibble := b.extractLsb' 0 4

/-- `KEYS[k] = 1` (10_state.md R47). -/
def State.keyDown (s : State) (k : Nibble) : Bool := s.keys.getLsbD k.toNat

/-- The three decimal digits of a byte, hundreds first (43_index_memory.md R203). -/
def bcdDigits (a : Byte) : List Byte :=
  [BitVec.ofNat 8 (a.toNat / 100), BitVec.ofNat 8 (a.toNat / 10 % 10), BitVec.ofNat 8 (a.toNat % 10)]

end Sys2Proof.Machine
end

