-- ==== Sys2Proof/Machine/Flags.lean ====
section
/-! DEFINITION. Every flag computation (10_state.md R28). The value written to VF is always 0x00 or 0x01;
comparisons are on the unsigned values before truncation (42_alu.md R170). -/

namespace Sys2Proof.Machine

/-- A condition as the byte 0x01 or 0x00 (10_state.md R28). -/
def flagByte (c : Bool) : Byte := if c then 1 else 0

/-- 1 "if the true sum exceeds 255, else 0" (42_alu.md R179). -/
def carryFlag (a b : Byte) : Byte := flagByte (decide (a.toNat + b.toNat > 255))

/-- 1 if `a >= b`, "no borrow" of `a - b` (42_alu.md R180, R182). -/
def noBorrowFlag (a b : Byte) : Byte := flagByte (decide (a.toNat ≥ b.toNat))

/-- Bit 0, the bit a right shift moves out (42_alu.md R181). -/
def lsbFlag (a : Byte) : Byte := flagByte (a.getLsbD 0)

/-- Bit 7, the bit a left shift moves out (42_alu.md R183). -/
def msbFlag (a : Byte) : Byte := flagByte (a.getLsbD 7)

/-- Sample, then write VF first and V[x] second; with x = 15 the result wins (42_alu.md R171). -/
def State.setFlagThenV (s : State) (x : Nibble) (flag result : Byte) : State :=
  (s.setV vf flag).setV x result

end Sys2Proof.Machine
end

