-- ==== Sys2Proof/Machine/Ops.lean ====
section
/-! DEFINITION. The shared operations: how an instruction ends (OK, BLOCKED, or an exception taken), the
bounds check, multi-byte memory accesses, the call stack and the skip (40_step_cycle.md R131, R135;
20_memory.md R60 to R67; 60_exceptions.md R259 to R262). -/

namespace Sys2Proof.Machine

/-! ### How an instruction ends -/

/-- The instruction returns OK: action 6 of the step, MODE becomes RUNNING (40_step_cycle.md R131, R136). -/
def State.complete (s : State) : State := { s with mode := .running, status := some .ok }

/-- The instruction returns BLOCKED: action 6 of the step (40_step_cycle.md R131). -/
def State.block (s : State) : State := { s with mode := .blocked, status := some .blocked }

/-- Whether an exception halts the machine: always, but for DecodeError, where UNKNOWN_POLICY decides
(60_exceptions.md R251 to R253). -/
def isFatal (p : Params) : CoreError → Bool
  | .decodeError _ => p.unknownPolicy == .fatal
  | .stackError _ => true
  | .memoryFault _ => true

/-- TAKING AN EXCEPTION (60_exceptions.md R259; action 7 of 40_step_cycle.md R131): the step's status is the
exception; a fatal one makes MODE HALTED and keeps it in ERR, the other leaves MODE RUNNING. Nothing is saved
anywhere else, no vector is read, PC stays as it is. -/
def State.raise (s : State) (e : CoreError) : State :=
  if isFatal s.params e then { s with mode := .halted, err := some e, status := some (.error e) }
  else { s with mode := .running, status := some (.error e) }

/-- LEAVING HALTED: there is no return-from-exception instruction; Reset and a successful Load set
`MODE <- RUNNING`, `ERR <- NONE` (60_exceptions.md R262). -/
def State.clearHalt (s : State) : State := { s with mode := .running, err := none }

/-- The numeric codes of the exceptions; NONE is 0 (60_exceptions.md R250). -/
def errorCode : Option CoreError → Nat
  | none => 0
  | some (.decodeError _) => 1
  | some (.stackError _) => 2
  | some (.memoryFault _) => 3

/-! ### Memory -/

/-- The bounds check of the `len` bytes from `base`: none when all lie inside memory (or there are none), else the
lowest out-of-range address, `max(base, 4096)` (20_memory.md R61, R67). -/
def rangeFault (base len : Nat) : Option Nat :=
  if len = 0 ∨ base + len ≤ memSize then none else some (max base memSize)

/-- Store bytes at increasing addresses, one single-byte access each (20_memory.md R63, R65). -/
def State.storeBytes (s : State) (base : Nat) : List Byte → State
  | [] => s
  | b :: bs => (s.setByte base b).storeBytes (base + 1) bs

/-- The `len` bytes from `base` in increasing order. -/
def State.loadBytes (s : State) (base len : Nat) : List Byte :=
  (List.range len).map (fun k => s.byteAt (base + k))

/-- `V[k] <- b`, `V[k + 1] <- ...`, one register for each byte of the list; the others keep their values
(43_index_memory.md R205). -/
def State.setRegsFrom (s : State) (k : Nat) : List Byte → State
  | [] => s
  | b :: bs => (s.setV (BitVec.ofNat 4 k) b).setRegsFrom (k + 1) bs

/-- A multi-byte store: the whole range is checked before anything changes (20_memory.md R67). -/
def State.storeChecked (s : State) (base : Nat) (bs : List Byte) : State :=
  match rangeFault base bs.length with
  | some a => s.raise (.memoryFault a)
  | none => (s.storeBytes base bs).complete

/-! ### The call stack -/

/-- `STACK[SP] <- w; SP <- SP + 1` (10_state.md R40), for SP below 16. -/
def State.push (s : State) (w : Word) (h : s.sp.toNat < 16) : State :=
  { s with stack := s.stack.set s.sp.toNat w h, sp := s.sp + 1 }

/-- `SP <- SP - 1; PC <- STACK[SP]` (10_state.md R40), for SP from 1 to 16; the popped entry keeps its value. -/
def State.popToPc (s : State) (h : s.sp.toNat - 1 < 16) : State :=
  { s with sp := s.sp - 1, pc := s.stack[s.sp.toNat - 1] }

/-! ### Skips -/

/-- A second `PC <- PC + 2` when the condition holds (40_step_cycle.md R135). -/
def State.skipIf (s : State) (c : Bool) : State := if c then s.setPc (s.pc + 2) else s

/-! ### Keys -/

/-- `KEYS & ~KPREV`: the keys pressed now that were not pressed when the previous step ended
(45_keypad_timers.md R232). -/
def State.newKeys (s : State) : BitVec 16 := s.keys &&& ~~~s.kprev

/-- The smallest index with its bit set (45_keypad_timers.md R232). -/
def lowestSet (w : BitVec 16) : Option Nat := (List.range 16).find? (fun k => w.getLsbD k)

/-! ### Fetch -/

/-- The fault address of the fetch at PC, if any: both bytes are checked (20_memory.md R62). -/
def State.fetchFault (s : State) : Option Nat := rangeFault s.pc.toNat 2

/-- `MemRead(PC, 2)`, big-endian (20_memory.md R62). -/
def State.fetchWord (s : State) : Word := wordOfBytes (s.byteAt s.pc.toNat) (s.byteAt (s.pc.toNat + 1))

/-- The fetch advance `PC <- PC + 2` (40_step_cycle.md R132). -/
def State.fetchAdvance (s : State) : State := s.setPc (s.pc + 2)

/-- `KPREV <- KEYS`, the last action of every step not taken in HALTED (40_step_cycle.md R138). -/
def State.latchKeys (s : State) : State := { s with kprev := s.keys }

/-- A step in HALTED changes nothing and returns the stored ERR (60_exceptions.md R262). With ERR = NONE, which no
run reaches, there is no status to return and the latch is left (log entry 10). -/
def State.reportHalted (s : State) : State :=
  match s.err with
  | some e => { s with status := some (.error e) }
  | none => s

end Sys2Proof.Machine
end

