-- ==== Sys2Proof/Machine/Alu.lean ====
section
/-! DEFINITION. Register loads, arithmetic, logic, shifts and the random byte (42_alu.md R170 to R184).
None can raise; PC stays at the fetch advance. -/

namespace Sys2Proof.Machine

/-- LD Vx,kk (42_alu.md R173). -/
def execLdImm (x : Nibble) (kk : Byte) (s : State) : Host.Outcome State Fault Refusal :=
  .next (s.setV x kk).complete

/-- ADD Vx,kk: modulo 256, VF not written as a flag (42_alu.md R174). -/
def execAddImm (x : Nibble) (kk : Byte) (s : State) : Host.Outcome State Fault Refusal :=
  .next (s.setV x (trunc8 (((s.readV x).toNat : Int) + (kk.toNat : Int)))).complete

/-- LD Vx,Vy (42_alu.md R175). -/
def execLdReg (x y : Nibble) (s : State) : Host.Outcome State Fault Refusal :=
  .next (s.setV x (s.readV y)).complete

/-- OR Vx,Vy: VF not written as a flag (42_alu.md R176). -/
def execOr (x y : Nibble) (s : State) : Host.Outcome State Fault Refusal :=
  .next (s.setV x (s.readV x ||| s.readV y)).complete

/-- AND Vx,Vy (42_alu.md R177). -/
def execAnd (x y : Nibble) (s : State) : Host.Outcome State Fault Refusal :=
  .next (s.setV x (s.readV x &&& s.readV y)).complete

/-- XOR Vx,Vy (42_alu.md R178). -/
def execXor (x y : Nibble) (s : State) : Host.Outcome State Fault Refusal :=
  .next (s.setV x (s.readV x ^^^ s.readV y)).complete

/-- ADD Vx,Vy: VF is the carry out (42_alu.md R179). -/
def execAddReg (x y : Nibble) (s : State) : Host.Outcome State Fault Refusal :=
  .next (s.setFlagThenV x (carryFlag (s.readV x) (s.readV y))
    (trunc8 (((s.readV x).toNat : Int) + ((s.readV y).toNat : Int)))).complete

/-- SUB Vx,Vy: VF is NOT borrow (42_alu.md R180). -/
def execSub (x y : Nibble) (s : State) : Host.Outcome State Fault Refusal :=
  .next (s.setFlagThenV x (noBorrowFlag (s.readV x) (s.readV y))
    (trunc8 (((s.readV x).toNat : Int) - ((s.readV y).toNat : Int)))).complete

/-- SHR Vx: shifts V[x], ignores y (42_alu.md R181). -/
def execShr (x _y : Nibble) (s : State) : Host.Outcome State Fault Refusal :=
  .next (s.setFlagThenV x (lsbFlag (s.readV x)) (s.readV x >>> 1)).complete

/-- SUBN Vx,Vy: `V[y] - V[x]`, VF is NOT borrow (42_alu.md R182). -/
def execSubn (x y : Nibble) (s : State) : Host.Outcome State Fault Refusal :=
  .next (s.setFlagThenV x (noBorrowFlag (s.readV y) (s.readV x))
    (trunc8 (((s.readV y).toNat : Int) - ((s.readV x).toNat : Int)))).complete

/-- SHL Vx: shifts V[x], ignores y (42_alu.md R183). -/
def execShl (x _y : Nibble) (s : State) : Host.Outcome State Fault Refusal :=
  .next (s.setFlagThenV x (msbFlag (s.readV x)) (s.readV x <<< 1)).complete

/-- `V[x] <- r & kk` for a drawn byte `r` (42_alu.md R184). -/
def State.setMaskedDraw (s : State) (x : Nibble) (kk r : Byte) : State := s.setV x (r &&& kk)

/-- The draw is used up: the next RND takes another free value (00_scope.md R15, log entry 6). -/
def State.nextDraw (s : State) : State := { s with draws := s.draws + 1 }

/-- RND Vx,kk: `r <- draw8(); V[x] <- r & kk` (42_alu.md R184). -/
def execRnd (x : Nibble) (kk : Byte) (s : State) : Host.Outcome State Fault Refusal :=
  .next (s.nextDraw.setMaskedDraw x kk (Config.drawByte s.draws)).complete

end Sys2Proof.Machine
end

