-- ==== Sys2Proof/Machine/Control.lean ====
section
/-! DEFINITION. Control flow (41_control_flow.md): SYS, JP, CALL, RET, JP V0 and the four compare-and-skip
instructions. On entry PC already holds the instruction's own address plus 2. -/

namespace Sys2Proof.Machine

/-- SYS nnn: a no-op (41_control_flow.md R151). -/
def execSys (_nnn : Addr12) (s : State) : Host.Outcome State Fault Refusal := .next s.complete

/-- JP nnn (41_control_flow.md R152). -/
def execJp (nnn : Addr12) (s : State) : Host.Outcome State Fault Refusal :=
  .next (s.setPc (zextAddr nnn)).complete

/-- CALL nnn (41_control_flow.md R153): pushes the advanced PC; StackError(OVERFLOW) when SP = 16. SP above 16
is log entry 8. -/
def execCall (nnn : Addr12) (s : State) : Host.Outcome State Fault Refusal :=
  if h : s.sp.toNat < 16 then .next ((s.push s.pc h).setPc (zextAddr nnn)).complete
  else if s.sp = 16 then .next (s.raise (.stackError .overflow))
  else .fault (.stackPointerIllegal s.sp)

/-- RET (41_control_flow.md R154): StackError(UNDERFLOW) when SP = 0. SP above 16 is log entry 8. -/
def execRet (s : State) : Host.Outcome State Fault Refusal :=
  if s.sp = 0 then .next (s.raise (.stackError .underflow))
  else if h : s.sp.toNat - 1 < 16 then .next (s.popToPc h).complete
  else .fault (.stackPointerIllegal s.sp)

/-- JP V0,nnn: the sum is not masked (41_control_flow.md R155). -/
def execJpV0 (nnn : Addr12) (s : State) : Host.Outcome State Fault Refusal :=
  .next (s.setPc (zextAddr nnn + zextByte (s.readV 0))).complete

/-- SE Vx,kk (41_control_flow.md R157). -/
def execSeImm (x : Nibble) (kk : Byte) (s : State) : Host.Outcome State Fault Refusal :=
  .next (s.skipIf (s.readV x == kk)).complete

/-- SNE Vx,kk (41_control_flow.md R158). -/
def execSneImm (x : Nibble) (kk : Byte) (s : State) : Host.Outcome State Fault Refusal :=
  .next (s.skipIf (s.readV x != kk)).complete

/-- SE Vx,Vy (41_control_flow.md R159). -/
def execSeReg (x y : Nibble) (s : State) : Host.Outcome State Fault Refusal :=
  .next (s.skipIf (s.readV x == s.readV y)).complete

/-- SNE Vx,Vy (41_control_flow.md R160). -/
def execSneReg (x y : Nibble) (s : State) : Host.Outcome State Fault Refusal :=
  .next (s.skipIf (s.readV x != s.readV y)).complete

end Sys2Proof.Machine
end

