-- ==== Sys2Proof/Machine/Display.lean ====
section
/-! DEFINITION. The display instructions CLS and DRW (44_display.md R220 to R223). -/

namespace Sys2Proof.Machine

/-- The all-off display (44_display.md R220). -/
def blankDisplay : Display := Vector.replicate 32 (Vector.replicate 64 false)

/-- `DISP[row][col]` (10_state.md R46). -/
def pixel (d : Display) (row : Fin 32) (col : Fin 64) : Bool := d[row][col]

/-- `DISP[row][col] <- DISP[row][col] ^ 1` (44_display.md R221). -/
def flipPixel (d : Display) (row : Fin 32) (col : Fin 64) : Display :=
  d.set row.val (d[row].set col.val (!pixel d row col))

/-- A drawing in progress: the display and `hit`, whether a set cell has been cleared (44_display.md R221). -/
structure Drawing where
  disp : Display
  hit : Bool
  deriving DecidableEq, Repr

/-- Invert one cell and note a collision (44_display.md R221). -/
def xorPixel (row : Fin 32) (col : Fin 64) (g : Drawing) : Drawing :=
  { disp := flipPixel g.disp row col, hit := g.hit || pixel g.disp row col }

/-- `row <- (y0 + r) % 32` (44_display.md R221). -/
def wrapRow (n : Nat) : Fin 32 := Fin.ofNat 32 n

/-- `col <- (x0 + b) % 64` (44_display.md R221). -/
def wrapCol (n : Nat) : Fin 64 := Fin.ofNat 64 n

/-- One sprite row: for `b = 0 to 7`, bit `7 - b` of the byte inverts the cell `b` columns right of `x0`; bit 7 is
the leftmost pixel (44_display.md R221, R223). -/
def drawRow (x0 : Nat) (row : Fin 32) (byte : Byte) (g : Drawing) : Drawing :=
  (List.range 8).foldl
    (fun g b => if byte.getLsbD (7 - b) then xorPixel row (wrapCol (x0 + b)) g else g) g

/-- The sprite rows in order, the first at row `y` (44_display.md R221). -/
def drawRows (x0 : Nat) : Nat → List Byte → Drawing → Drawing
  | _, [], g => g
  | y, byte :: bytes, g => drawRows x0 (y + 1) bytes (drawRow x0 (wrapRow y) byte g)

/-- The drawing of a sprite at the wrapped start coordinate `(vx % 64, vy % 32)` (44_display.md R221). -/
def drawSprite (d : Display) (vx vy : Byte) (bytes : List Byte) : Drawing :=
  drawRows (vx.toNat % 64) (vy.toNat % 32) bytes { disp := d, hit := false }

/-- CLS (44_display.md R220). -/
def execCls (s : State) : Host.Outcome State Fault Refusal := .next (s.setDisp blankDisplay).complete

/-- Show a finished drawing: the display, then `V[15] <- hit` (44_display.md R221). -/
def State.applyDrawing (s : State) (g : Drawing) : State := (s.setDisp g.disp).setV vf (flagByte g.hit)

/-- DRW Vx,Vy,n (44_display.md R221): the sprite's whole range is checked first; no range for n = 0. -/
def execDrw (x y n : Nibble) (s : State) : Host.Outcome State Fault Refusal :=
  match rangeFault (s.ea 0) n.toNat with
  | some a => .next (s.raise (.memoryFault a))
  | none =>
    .next (s.applyDrawing (drawSprite s.disp (s.readV x) (s.readV y) (s.loadBytes (s.ea 0) n.toNat))).complete

end Sys2Proof.Machine
end

