-- ==== Sys2Proof/Machine/Index.lean ====
section
/-! DEFINITION. The address register and the memory instructions (43_index_memory.md R200 to R206). No
memory instruction writes I (R206, 92_eei_decisions.md D12). -/

namespace Sys2Proof.Machine

/-- LD I,nnn (43_index_memory.md R200). -/
def execLdI (nnn : Addr12) (s : State) : Host.Outcome State Fault Refusal :=
  .next (s.setI (zextAddr nnn)).complete

/-- ADD I,Vx: modulo 65536, VF not written (43_index_memory.md R201). -/
def execAddI (x : Nibble) (s : State) : Host.Outcome State Fault Refusal :=
  .next (s.setI (s.i + zextByte (s.readV x))).complete

/-- The address of glyph `d`, `FONT_BASE + 5 * d` (43_index_memory.md R202). -/
def glyphAddr (d : Nibble) : Word := BitVec.ofNat 16 (fontBase + glyphSize * d.toNat)

/-- LD F,Vx: the glyph of the low 4 bits of V[x] (43_index_memory.md R202). -/
def execLdF (x : Nibble) (s : State) : Host.Outcome State Fault Refusal :=
  .next (s.setI (glyphAddr (lowNibble (s.readV x)))).complete

/-- LD B,Vx: the three decimal digits at I, I+1, I+2 (43_index_memory.md R203). -/
def execLdB (x : Nibble) (s : State) : Host.Outcome State Fault Refusal :=
  .next (s.storeChecked (s.ea 0) (bcdDigits (s.readV x)))

/-- LD [I],Vx: stores V[0] to V[x] from I up (43_index_memory.md R204). -/
def execStRegs (x : Nibble) (s : State) : Host.Outcome State Fault Refusal :=
  .next (s.storeChecked (s.ea 0) (s.firstRegs (x.toNat + 1)))

/-- LD Vx,[I]: loads V[0] to V[x] from I up (43_index_memory.md R205). -/
def execLdRegs (x : Nibble) (s : State) : Host.Outcome State Fault Refusal :=
  match rangeFault (s.ea 0) (x.toNat + 1) with
  | some a => .next (s.raise (.memoryFault a))
  | none => .next (s.setRegsFrom 0 (s.loadBytes (s.ea 0) (x.toNat + 1))).complete

end Sys2Proof.Machine
end

