-- ==== Sys2Proof/Machine/Keypad.lean ====
section
/-! DEFINITION. The keypad and timer instructions (45_keypad_timers.md R230 to R236). -/

namespace Sys2Proof.Machine

/-- SKP Vx: the level of the key now (45_keypad_timers.md R230). -/
def execSkp (x : Nibble) (s : State) : Host.Outcome State Fault Refusal :=
  .next (s.skipIf (s.keyDown (lowNibble (s.readV x)))).complete

/-- SKNP Vx (45_keypad_timers.md R231). -/
def execSknp (x : Nibble) (s : State) : Host.Outcome State Fault Refusal :=
  .next (s.skipIf (!s.keyDown (lowNibble (s.readV x)))).complete

/-- LD Vx,K (45_keypad_timers.md R232): the lowest newly pressed key, or BLOCKED with PC put back. -/
def execLdVxK (x : Nibble) (s : State) : Host.Outcome State Fault Refusal :=
  match lowestSet s.newKeys with
  | some k => .next (s.setV x (BitVec.ofNat 8 k)).complete
  | none => .next (s.setPc (s.pc - 2)).block

/-- LD Vx,DT (45_keypad_timers.md R233). -/
def execLdVxDt (x : Nibble) (s : State) : Host.Outcome State Fault Refusal :=
  .next (s.setV x s.dt).complete

/-- LD DT,Vx (45_keypad_timers.md R234). -/
def execLdDtVx (x : Nibble) (s : State) : Host.Outcome State Fault Refusal :=
  .next (s.setDt (s.readV x)).complete

/-- LD ST,Vx (45_keypad_timers.md R235). -/
def execLdStVx (x : Nibble) (s : State) : Host.Outcome State Fault Refusal :=
  .next (s.setSt (s.readV x)).complete

end Sys2Proof.Machine
end

