-- ==== Sys2Proof/Machine/Unknown.lean ====
section
/-! DEFINITION. Executing the UNKNOWN tag (60_exceptions.md R251). -/

namespace Sys2Proof.Machine

/-- UNKNOWN: `raise DecodeError(raw)`, nothing else; UNKNOWN_POLICY decides whether the machine halts
(60_exceptions.md R251). -/
def execUnknown (raw : Word) (s : State) : Host.Outcome State Fault Refusal :=
  .next (s.raise (.decodeError raw))

end Sys2Proof.Machine
end

