-- ==== Sys2Proof/Machine/HostOps.lean ====
section
/-! DEFINITION. The Host's moves, each atomic and between two steps (60_exceptions.md R276; 10_state.md R51 to
R56; 70_reset_and_hazards.md R290 to R298). `Step()` is `step` of Machine/Step.lean. -/

namespace Sys2Proof.Machine

/-- PROGRAM_BASE (00_scope.md R7). -/
def programBase : Nat := 0x200

/-- What `Load(rom)` returns (10_state.md R52). -/
inductive LoadResult
  /-- OK -/
  | ok
  /-- CapacityError(len), code 4 (60_exceptions.md R250, R254) -/
  | capacityError (len : Nat)
  deriving DecidableEq, Repr

/-- The numeric code of a Load's result; success has none of the errors, 0 (60_exceptions.md R250). -/
def loadCode : LoadResult → Nat
  | .ok => 0
  | .capacityError _ => 4

/-- The two timers the Host can name (10_state.md R54). -/
inductive Timer
  | dt
  | st
  deriving DecidableEq, Repr

/-- `Reset()` (70_reset_and_hazards.md R290). The open parameters stay and the draws taken stay taken. -/
def hostReset (s : State) : State := State.resetWith s.params s.draws

/-- Whether `Load` accepts a ROM of `len` bytes (70_reset_and_hazards.md R295). -/
def romFits (len : Nat) : Bool := decide (len + programBase ≤ memSize)

/-- What a successful `Load` does (70_reset_and_hazards.md R295, R296): everything else stays. -/
def loadRom (rom : List Byte) (s : State) : State :=
  { (s.storeBytes programBase rom).clearHalt with pc := BitVec.ofNat 16 programBase, sp := 0, loaded := true }

/-- `Load(rom)` (70_reset_and_hazards.md R295); a failed Load changes nothing. -/
def hostLoad (rom : List Byte) (s : State) : LoadResult × State :=
  if romFits rom.length then (.ok, loadRom rom s) else (.capacityError rom.length, s)

/-- `SetKey(k, v)` (10_state.md R53). -/
def hostSetKey (k : Nibble) (down : Bool) (s : State) : State :=
  { s with keys := if down then s.keys ||| BitVec.twoPow 16 k.toNat else s.keys &&& ~~~BitVec.twoPow 16 k.toNat }

/-- `TimerWrite(t, v)` (10_state.md R54). -/
def hostTimerWrite (t : Timer) (b : Byte) (s : State) : State :=
  match t with
  | .dt => s.setDt b
  | .st => s.setSt b

/-- A tick lowers a non-zero timer by one and leaves zero at zero (10_state.md R54). -/
def tickDown (b : Byte) : Byte := if b.toNat > 0 then b - 1 else b

/-- `TimerTick()` (10_state.md R54). -/
def hostTimerTick (s : State) : State := (s.setDt (tickDown s.dt)).setSt (tickDown s.st)

/-- `ReadTimer(t)` (10_state.md R55). -/
def hostReadTimer (t : Timer) (s : State) : Byte :=
  match t with
  | .dt => s.dt
  | .st => s.st

/-- `ReadDisplay()`: cell `row * 64 + col` at position `row * 64 + col` (10_state.md R46, R55). -/
def hostReadDisplay (s : State) : List Bool := (s.disp.toList.map Vector.toList).flatten

/-- The machine ready to fetch the word `op` with its next step: where it already would fetch (loaded, PC inside
memory) the word goes there, else it is loaded at 0x200; a halted machine is set running (log entry 3). -/
def placeForFetch (op : Word) (s : State) : State :=
  let s := if s.loaded && decide (s.pc.toNat + 2 ≤ memSize) then s
    else { s with pc := BitVec.ofNat 16 programBase, loaded := true }
  let s := if s.mode = .halted then s.clearHalt else s
  s.storeBytes s.pc.toNat (bytesOfWord op)

end Sys2Proof.Machine
end

