-- ==== Sys2Proof/Machine/Step.lean ====
section
/-! DEFINITION. The step cycle (40_step_cycle.md R131). -/

namespace Sys2Proof.Machine

/-- Actions 3 to 8 of the step for a fetched word: advance, decode, execute, latch the keys (40_step_cycle.md R131). -/
def runWord (op : Word) (s : State) : Host.Outcome State Fault Refusal :=
  match exec (decode op) s.fetchAdvance with
  | .next t => .next t.latchKeys
  | .fault f => .fault f
  | .refused r => .refused r

/-- `Step()` (40_step_cycle.md R131): refused before the first successful Load (70_reset_and_hazards.md R293); nothing
but the report in HALTED (60_exceptions.md R262); a fetch fault leaves PC (R260). -/
def step (s : State) : Host.Outcome State Fault Refusal :=
  if s.loaded = false then .refused .stepBeforeLoad
  else if s.mode = .halted then .next s.reportHalted
  else match s.fetchFault with
    | some a => .next (s.raise (.memoryFault a)).latchKeys
    | none => runWord s.fetchWord s

/-- The state in which the next step fetches and runs the table word `w` of `nbits` bits (log entry 3). -/
def State.withFetchWord (s : State) (nbits w : Nat) : State := placeForFetch (BitVec.ofNat 16 (w % 2 ^ nbits)) s

end Sys2Proof.Machine
end

