-- ==== Sys2Proof/Safety.lean ====
section
/-! DEFINITION. The terms the statements use: the pieces of the state and what "unchanged" means, how a
handler ends, the invariant of the machine, and the runs the Host can drive. -/

namespace Sys2Proof.Machine

/-- The pieces the state is made of: each register, each stack entry, each byte of memory, each display cell, and
the single fields. -/
inductive Piece
  | v (x : Nibble)
  | i
  | pc
  | sp
  | stack (k : Fin 16)
  | dt
  | st
  | mem (a : Nat)
  | pixel (row : Fin 32) (col : Fin 64)
  | keys
  | kprev
  | mode
  | err
  | loaded
  | status
  | draws
  | params
  deriving DecidableEq, Repr

/-- `t` holds in piece `p` what `s` holds there. Memory is read through the model's read of one byte. -/
def sameAt (s t : State) : Piece → Prop
  | .v x => t.readV x = s.readV x
  | .i => t.i = s.i
  | .pc => t.pc = s.pc
  | .sp => t.sp = s.sp
  | .stack k => t.stack[k] = s.stack[k]
  | .dt => t.dt = s.dt
  | .st => t.st = s.st
  | .mem a => t.byteAt a = s.byteAt a
  | .pixel row col => pixel t.disp row col = pixel s.disp row col
  | .keys => t.keys = s.keys
  | .kprev => t.kprev = s.kprev
  | .mode => t.mode = s.mode
  | .err => t.err = s.err
  | .loaded => t.loaded = s.loaded
  | .status => t.status = s.status
  | .draws => t.draws = s.draws
  | .params => t.params = s.params

/-- Every piece outside `w` is unchanged from `s` to `t`. -/
def unchangedExcept (w : Set Piece) (s t : State) : Prop := ∀ p, p ∉ w → sameAt s t p

/-- The handler returned OK: MODE is RUNNING, the status OK, and beside these it changed at most the pieces `w`
(40_step_cycle.md R131 action 6). -/
def endsOk (w : Set Piece) (s t : State) : Prop :=
  t.mode = .running ∧ t.status = some .ok ∧ unchangedExcept (w ∪ {.mode, .status}) s t

/-- The fatal exception `e` was taken: MODE is HALTED, ERR and the status are `e`, and nothing else changed
(60_exceptions.md R259, R261). -/
def takesFatal (e : CoreError) (s t : State) : Prop :=
  t.mode = .halted ∧ t.err = some e ∧ t.status = some (.error e) ∧ unchangedExcept {.mode, .err, .status} s t

/-- Every piece of state with a reset value holds it: the "after Reset" column of 10_state.md R57, but for PC, which
is unspecified. FONT_ROM is the open parameter. -/
def atResetValues (t : State) : Prop :=
  (∀ x, t.readV x = 0) ∧ t.i = 0 ∧ t.sp = 0 ∧ (∀ k : Fin 16, t.stack[k] = 0) ∧ t.dt = 0 ∧ t.st = 0 ∧
  (∀ k (h : k < 80), t.byteAt k = t.params.fontRom[k]) ∧ (∀ a, 0x50 ≤ a → a < 4096 → t.byteAt a = 0) ∧
  (∀ row col, pixel t.disp row col = false) ∧ t.keys = 0 ∧ t.kprev = 0 ∧ t.mode = .running ∧ t.err = none

/-- The bytes `I`, `I + 1`, ... of an instruction that touches `len` of them (43_index_memory.md R206). -/
def memRange (s : State) (len : Nat) : Set Piece := {p | ∃ k, k < len ∧ p = .mem (s.ea k)}

/-- The machine fetches: a program is loaded, MODE is not HALTED, and both bytes at PC lie inside memory
(20_memory.md R62, 40_step_cycle.md R131). -/
def fetches (s : State) : Prop := s.loaded = true ∧ s.mode ≠ .halted ∧ s.pc.toNat ≤ 0xFFE

/-- The sprite of `DRW Vx,Vy,n` has a set bit on the cell: row `r` of it, bit `b` from the left, wrapped to the
display (44_display.md R221, R223). -/
def spriteCovers (s : State) (x y n : Nibble) (row : Fin 32) (col : Fin 64) : Prop :=
  ∃ r b, r < n.toNat ∧ b < 8 ∧ (s.byteAt (s.ea r)).getLsbD (7 - b) = true ∧
    row.val = ((s.readV y).toNat % 32 + r) % 32 ∧ col.val = ((s.readV x).toNat % 64 + b) % 64

/-- The skip condition of the six conditional skips (40_step_cycle.md R135; 41_control_flow.md R157 to R160;
45_keypad_timers.md R230, R231); none for every other instruction. -/
def skipCondition (s : State) : Instr → Option Bool
  | .seImm x kk => some (s.readV x == kk)
  | .sneImm x kk => some (s.readV x != kk)
  | .seReg x y => some (s.readV x == s.readV y)
  | .sneReg x y => some (s.readV x != s.readV y)
  | .skp x => some (s.keys.getLsbD ((s.readV x).toNat % 16))
  | .sknp x => some (!s.keys.getLsbD ((s.readV x).toNat % 16))
  | _ => none

/-- The general registers an instruction may write: "write V[x]", "write V[0] to V[x]" and "write V[15] as a flag"
of 10_state.md R22. -/
def mayWriteV : Instr → Nibble → Prop
  | .ldImm x _, r | .addImm x _, r | .ldReg x _, r | .or x _, r | .and x _, r | .xor x _, r => r = x
  | .rnd x _, r | .ldVxDt x, r | .ldVxK x, r => r = x
  | .addReg x _, r | .sub x _, r | .shr x _, r | .subn x _, r | .shl x _, r => r = x ∨ r = 15
  | .drw _ _ _, r => r = 15
  | .ldRegs x, r => r ≤ x
  | _, _ => False

/-- The exceptions an instruction can raise (60_exceptions.md R258). -/
def mayRaise (i : Instr) (e : CoreError) : Prop :=
  match i with
  | .unknown raw => e = .decodeError raw
  | .call _ => e = .stackError .overflow
  | .ret => e = .stackError .underflow
  | .drw _ _ _ | .ldB _ | .stRegs _ | .ldRegs _ => ∃ a, e = .memoryFault a
  | .cls | .sys _ | .jp _ | .jpV0 _ | .ldI _ | .addI _ | .ldF _ => False
  | .seImm _ _ | .sneImm _ _ | .seReg _ _ | .sneReg _ _ | .skp _ | .sknp _ => False
  | .ldImm _ _ | .addImm _ _ | .ldReg _ _ | .or _ _ | .and _ _ | .xor _ _ | .rnd _ _ => False
  | .addReg _ _ | .sub _ _ | .shr _ _ | .subn _ _ | .shl _ _ => False
  | .ldVxDt _ | .ldVxK _ | .ldDtVx _ | .ldStVx _ => False

/-- What holds of the machine between steps: memory in its canonical form; SP from 0 to 16 (10_state.md R32);
"ERR = NONE exactly when MODE is not HALTED" (R36), the status being the stored error then; the bound on PC after a Load
and on the return addresses in use (R27). -/
structure MachineInv (s : State) : Prop where
  memory : Memory.wf s.params s.mem = true
  stackPointer : s.sp.toNat ≤ 16
  errorIffHalted : s.err = none ↔ s.mode ≠ .halted
  haltedStatus : s.mode = .halted → s.status = s.err.map Status.error
  pcBound : s.loaded = true → s.pc.toNat ≤ 0x10FE
  returnAddresses : ∀ k : Fin 16, k.val < s.sp.toNat → (s.stack[k]).toNat ≤ 0x1000

/-- The moves of a run: the core's step and the Host's moves (60_exceptions.md R276). -/
inductive Move
  | step
  | reset
  | load (rom : List Byte)
  | setKey (k : Nibble) (down : Bool)
  | timerWrite (t : Timer) (b : Byte)
  | timerTick
  deriving DecidableEq, Repr

/-- What a move makes of the state; a failed Load leaves it. -/
def applyMove (m : Move) (s : State) : Host.Outcome State Fault Refusal :=
  match m with
  | .step => step s
  | .reset => .next (hostReset s)
  | .load rom => .next (hostLoad rom s).2
  | .setKey k down => .next (hostSetKey k down s)
  | .timerWrite t b => .next (hostTimerWrite t b s)
  | .timerTick => .next (hostTimerTick s)

/-- The states of the runs that begin with construction, under any open parameters and any Host. -/
inductive Reachable : State → Prop
  | constructed (p : Params) (draws : Nat) : Reachable (State.resetWith p draws)
  | moved (m : Move) {s t : State} : Reachable s → applyMove m s = .next t → Reachable t

/-- `n` executions of CALL nnn in a row, if each answers a next state (the 16-call property of
41_control_flow.md R153). -/
def callTimes (nnn : Addr12) : Nat → State → Option State
  | 0, s => some s
  | n + 1, s =>
    match exec (.call nnn) s with
    | .next t => callTimes nnn n t
    | _ => none

end Sys2Proof.Machine
end

