-- ==== Sys2Proof/WellFormed.lean ====
section
/-! DEFINITION. The instructions that some word encodes. Every field is exactly as wide as its place in the
word (30_encoding.md R91), so two checks remain: a SYS is none of the two words CLS and RET take, and an
UNKNOWN carries a word of the UNKNOWN space. -/

namespace Sys2Proof

/-- SYS is every word of class 0x0 "except those two", 0x00E0 and 0x00EE (30_encoding.md R102). -/
def sysFieldOk (nnn : Addr12) : Bool := nnn != 0x0E0 && nnn != 0x0EE

/-- Whether the decoder can deliver the instruction (30_encoding.md R100, R102, R116). -/
def Instr.wellFormed : Instr → Bool
  | .sys nnn => sysFieldOk nnn
  | .unknown raw => isUnknownWord raw
  | .cls | .ret | .jp _ | .call _ | .ldI _ | .jpV0 _ => true
  | .seImm _ _ | .sneImm _ _ | .ldImm _ _ | .addImm _ _ | .rnd _ _ => true
  | .seReg _ _ | .sneReg _ _ | .ldReg _ _ | .or _ _ | .and _ _ | .xor _ _ => true
  | .addReg _ _ | .sub _ _ | .shr _ _ | .subn _ _ | .shl _ _ | .drw _ _ _ => true
  | .skp _ | .sknp _ | .ldVxDt _ | .ldVxK _ | .ldDtVx _ | .ldStVx _ => true
  | .addI _ | .ldF _ | .ldB _ | .stRegs _ | .ldRegs _ => true

end Sys2Proof
end

