-- ==== Sys2Proof/Certificates/Slice0/Obligations.lean ====
section
/-! DEFINITION. The statements for the provers, in the terms of Safety.lean; each docstring names the rules of spec/
it formalises. "Completes" means: exec answers a next state with MODE RUNNING and the status OK. -/

open Sys2Proof Sys2Proof.Machine

/-- The constructed state and the state after Reset() hold every value of the after-Reset column (all registers, stack, timers, display, keys and the key latch zero; memory zero but for FONT_ROM at 0x000 to 0x04F; MODE RUNNING; ERR NONE); PC is unspecified and not constrained; a Reset of the constructed machine is the constructed machine; Reset keeps the open parameters. MODE RUNNING and ERR NONE (D3, D4), the key latch KPREV (D14) and where FONT_ROM lies (D17) are the spec's own decisions (log entry 9); that Reset keeps the open parameters is the model's reading (log entry 12), and that the two states agree in PC holds because the model's unspecified PC is one constant (log entry 1, D2). (70_reset_and_hazards.md section 1 (I1), 10_state.md section 9 (I1), 92_eei_decisions.md D2, D3, D4, D14, D17, notes/assumptions/1.md, 5.md, 9.md, 12.md.) -/
def Obligations.ResetLeavesSpecifiedValues : Prop :=
  atResetValues State.reset ∧ hostReset State.reset = State.reset ∧
    ∀ s, atResetValues (hostReset s) ∧ (hostReset s).params = s.params

/-- After a Reset no program is loaded, and a Step in every state with no program loaded is refused under the name stepBeforeLoad, so no value of PC before a Load is ever used; a failed Load leaves it so. The refusal is the spec's own decision D2, and LOADED a device of the model (log entry 2). That a failed Load changes nothing is its decision D26 (log entry 9). (70_reset_and_hazards.md section 1 (I1), 92_eei_decisions.md D2, D26.) -/
def Obligations.StepBeforeLoadIsRefused : Prop :=
  (∀ s, (hostReset s).loaded = false) ∧ (∀ s, s.loaded = false → step s = .refused .stepBeforeLoad) ∧
    ∀ rom s, 4096 < rom.length + 0x200 → (hostLoad rom s).2.loaded = s.loaded

/-- For every ROM of at most 3584 bytes Load returns OK, byte k of the ROM is at 0x200 + k, PC is 0x200, SP is 0, MODE RUNNING, ERR NONE, and every other piece of state (every other byte of memory, the font, the registers, the stack entries, the timers, the display, the keys, the key latch) is unchanged but for the model's own LOADED; for every longer ROM Load returns CapacityError(len) and changes nothing at all. MODE and ERR after Load, and that the list of effects is complete, are the spec's own decisions D3 and D26 (log entry 9). (70_reset_and_hazards.md section 2 (I2), 92_eei_decisions.md D3, D26.) -/
def Obligations.LoadCopiesRomAndStartsAtBase : Prop :=
  (∀ (rom : List Byte) (s : State), rom.length + 0x200 ≤ 4096 → ∃ t, hostLoad rom s = (.ok, t) ∧
      (∀ k (h : k < rom.length), t.byteAt (0x200 + k) = rom[k]) ∧ t.pc = 0x200 ∧ t.sp = 0 ∧ t.mode = .running ∧
      t.err = none ∧ t.loaded = true ∧
      unchangedExcept ({p | ∃ k, k < rom.length ∧ p = .mem (0x200 + k)} ∪ {.pc, .sp, .mode, .err, .loaded}) s t) ∧
    ∀ (rom : List Byte) (s : State), 4096 < rom.length + 0x200 → hostLoad rom s = (.capacityError rom.length, s)

/-- In HALTED with a stored error e, Step answers a next state whose status is e and in which every piece but the status latch (the model's own output field) is unchanged, KPREV included; every move of the core or the Host from HALTED that leaves it is a Reset or a Load that fits; both of these set MODE RUNNING and ERR NONE. How HALTED is left is the spec's own decision D4 (log entry 9); the status latch is the model's (log entry 7). MODE and ERR after Reset and Load are its decision D3 (log entry 9). (60_exceptions.md section 5 (G5), 92_eei_decisions.md D3, D4.) -/
def Obligations.HaltedIsStickyUntilResetOrLoad : Prop :=
  (∀ s e, s.loaded = true → s.mode = .halted → s.err = some e →
      ∃ t, step s = .next t ∧ t.status = some (.error e) ∧ unchangedExcept {.status} s t) ∧
    (∀ m s t, s.mode = .halted → applyMove m s = .next t → t.mode ≠ .halted →
      m = .reset ∨ ∃ rom, m = .load rom ∧ rom.length + 0x200 ≤ 4096) ∧
    (∀ s, (hostReset s).mode = .running ∧ (hostReset s).err = none) ∧
    ∀ rom s, rom.length + 0x200 ≤ 4096 → (hostLoad rom s).2.mode = .running ∧ (hostLoad rom s).2.err = none

/-- With a program loaded and MODE not HALTED, a Step with PC of 0xFFF or more answers a next state in which MODE is HALTED, ERR and the status are MemoryFault(4096) for PC = 0xFFF and MemoryFault(PC) above, KPREV is KEYS, and every other piece, PC included, is unchanged. The state after the fault and the error MemoryFault are the spec's own decisions D5 and D6 (log entry 9). The key latch is its decision D14 (log entry 9). (60_exceptions.md section 4 (G4), 20_memory.md section 1, 92_eei_decisions.md D5, D6, D14.) -/
def Obligations.FetchFaultHaltsAndKeepsPc : Prop :=
  ∀ s, s.loaded = true → s.mode ≠ .halted → 0xFFF ≤ s.pc.toNat → ∃ t, step s = .next t ∧ t.mode = .halted ∧
    t.err = some (.memoryFault (if s.pc.toNat = 0xFFF then 4096 else s.pc.toNat)) ∧
    t.status = t.err.map Status.error ∧ t.kprev = s.keys ∧ unchangedExcept {.mode, .err, .status, .kprev} s t

/-- With a program loaded, MODE not HALTED and PC at most 0xFFE, step is exec of the decoding of the big-endian word at PC, PC + 1, run in the state with PC advanced by 2, and where that answers a next state KPREV becomes KEYS; a fault or a refusal of exec is the step's. The key latch is the spec's own mechanism D14 (log entry 9). That the reserved region and odd addresses are fetched (D21, D22) and that BLOCKED is an ordinary mode to fetch in (D29) are its own decisions (log entry 9). (40_step_cycle.md R131, R132, R133, 20_memory.md R62, 92_eei_decisions.md D14, D21, D22, D29.) -/
def Obligations.StepRunsDecodedInstruction : Prop :=
  ∀ s, fetches s → step s =
    match exec (decode (s.byteAt s.pc.toNat ++ s.byteAt (s.pc.toNat + 1))) { s with pc := s.pc + 2 } with
    | .next t => .next { t with kprev := t.keys }
    | .fault f => .fault f
    | .refused r => .refused r

/-- For every well-formed instruction, with every operand at every value, decode of its encoding is the instruction; and every one of the 65536 words decodes to a well-formed instruction whose encoding is that word. The exact match of CLS and RET and the sub-opcode numbers are the spec's own D16 and D30 (log entry 9). Which fields a tag carries is its decision D28 (log entry 9). (30_encoding.md sections 1, 2, 4 and 5 (E1 to E4), 92_eei_decisions.md D16, D28, D30.) -/
def Obligations.EncodeDecodeBijection : Prop :=
  (∀ i : Instr, i.wellFormed = true → decode (encode i) = i) ∧
    ∀ op : Word, (decode op).wellFormed = true ∧ encode (decode op) = op

/-- For every word, the decoder written from the dispatch algorithm delivers the instruction of the first row of the complete opcode map whose mask and match select the word. The exact match of CLS and RET and the sub-opcode numbers are the spec's own D16 and D30 (log entry 9). Which fields a tag carries is its decision D28 (log entry 9). (30_encoding.md section 4 (E3), 92_eei_decisions.md D16, D28, D30.) -/
def Obligations.DecoderFollowsOpcodeMap : Prop :=
  ∀ op : Word, decodeByMap op = some (decode op)

/-- A word decodes to UNKNOWN exactly when it is of class 5 or 9 with a non-zero low nibble, of class 8 with a low nibble that is no operation, of class E with a low byte other than 9E and A1, or of class F with a low byte that is none of the nine; and the UNKNOWN tag carries the word itself. The sub-opcode numbers are the spec's own D30 (log entry 9). That UNKNOWN carries the raw word is its decision D28 (log entry 9). (30_encoding.md section 5 (E4), 92_eei_decisions.md D28, D30.) -/
def Obligations.UnknownSpaceIsExactlyTheTable : Prop :=
  (∀ op : Word, (∃ raw, decode op = .unknown raw) ↔
      (op.toNat / 4096 = 5 ∧ op.toNat % 16 ≠ 0) ∨ (op.toNat / 4096 = 9 ∧ op.toNat % 16 ≠ 0) ∨
      (op.toNat / 4096 = 8 ∧ op.toNat % 16 ∈ [8, 9, 10, 11, 12, 13, 15]) ∨
      (op.toNat / 4096 = 14 ∧ op.toNat % 256 ∉ [0x9E, 0xA1]) ∨
      (op.toNat / 4096 = 15 ∧ op.toNat % 256 ∉ [0x07, 0x0A, 0x15, 0x18, 0x1E, 0x29, 0x33, 0x55, 0x65])) ∧
    ∀ op raw, decode op = .unknown raw → raw = op

/-- The words 00E0, 00EE, 01E0, 1ABC, 2200, 3A42, 5120, 5121, 9AB0, 8AB4, 8ABE, C30F, D123, E09E, E0A1, F30A, F055, FFFF decode to CLS, RET, SYS 1E0, JP ABC, CALL 200, SE VA,42, SE V1,V2, UNKNOWN, SNE VA,VB, ADD VA,VB, SHL VA, RND V3,0F, DRW V1,V2,3, SKP V0, SKNP V0, LD V3,K, LD [I],V0 and UNKNOWN. The sub-opcode numbers are the spec's own D30 (log entry 9). The exact match of CLS and RET (D16) and the fields a tag carries (D28) are its own decisions (log entry 9). (95_test_vectors.md part 2.1, T-DEC-1 to T-DEC-21, 92_eei_decisions.md D16, D28, D30.) -/
def Obligations.SampleWordsDecode : Prop :=
  decode 0x00E0 = .cls ∧ decode 0x00EE = .ret ∧ decode 0x01E0 = .sys 0x1E0 ∧ decode 0x1ABC = .jp 0xABC ∧
    decode 0x2200 = .call 0x200 ∧ decode 0x3A42 = .seImm 0xA 0x42 ∧ decode 0x5120 = .seReg 1 2 ∧
    decode 0x5121 = .unknown 0x5121 ∧ decode 0x9AB0 = .sneReg 0xA 0xB ∧ decode 0x8AB4 = .addReg 0xA 0xB ∧
    decode 0x8ABE = .shl 0xA 0xB ∧ decode 0xC30F = .rnd 3 0x0F ∧ decode 0xD123 = .drw 1 2 3 ∧ decode 0xE09E = .skp 0 ∧
    decode 0xE0A1 = .sknp 0 ∧ decode 0xF30A = .ldVxK 3 ∧ decode 0xF055 = .stRegs 0 ∧ decode 0xFFFF = .unknown 0xFFFF

/-- Encodings 0nnn (but 00E0 and 00EE) and 1nnn; each completes in every state: SYS leaves every piece but MODE and the status; JP changes PC only, to nnn, whatever PC was and with no skip advance. That every class 0 word but 00E0 and 00EE is SYS rests on the exact match of CLS and RET, the spec's own decision D16, and that the target is not checked on its D24 (log entry 9). (41_control_flow.md (SYS nnn; JP nnn), 30_encoding.md section 4 (E3), 92_eei_decisions.md D16, D24.) -/
def Obligations.SysAndJumpSetPcOnly : Prop :=
  (∀ nnn, nnn ≠ 0x0E0 → nnn ≠ 0x0EE → decode (wordNNN 0x0 nnn) = .sys nnn) ∧
    (∀ nnn, decode (wordNNN 0x1 nnn) = .jp nnn) ∧
    ∀ (s : State) (nnn : Addr12),
      (∃ t, exec (.sys nnn) s = .next t ∧ endsOk ∅ s t) ∧
      (∃ t, exec (.jp nnn) s = .next t ∧ endsOk {.pc} s t ∧ t.pc.toNat = nnn.toNat)

/-- Encoding Bnnn; completes in every state; PC is nnn + V0, a sum that is not reduced, and nothing else changes; with a program loaded and a sum of 0xFFF or more the next step answers a next state with MODE HALTED, ERR MemoryFault(max(nnn + V0, 4096)) and PC as it was. That the sum is not masked is the spec's own decision D24 (log entry 9). The state and the address of the fetch fault are its D5 and D6 (log entry 9). (41_control_flow.md (JP V0,nnn), 60_exceptions.md section 4 (G4), 92_eei_decisions.md D5, D6, D24.) -/
def Obligations.JumpWithOffsetIsNotMasked : Prop :=
  (∀ nnn, decode (wordNNN 0xB nnn) = .jpV0 nnn) ∧
    ∀ (s : State) (nnn : Addr12), ∃ t, exec (.jpV0 nnn) s = .next t ∧ endsOk {.pc} s t ∧
      t.pc.toNat = nnn.toNat + (s.readV 0).toNat ∧
      (s.loaded = true → 0xFFF ≤ nnn.toNat + (s.readV 0).toNat → ∃ u, step t = .next u ∧ u.mode = .halted ∧
        u.err = some (.memoryFault (max (nnn.toNat + (s.readV 0).toNat) 4096)) ∧ u.pc = t.pc)

/-- Encoding 2nnn; with SP below 16 CALL completes: entry SP of the stack holds the PC it was executed with (the fetch advance done), SP is one more, PC is nnn, and only that entry, SP and PC change; with SP = 16 it takes the fatal StackError(OVERFLOW) and nothing else changes, PC included. The state after the overflow is the spec's own decision D5, that SP reaches 16 its D27, that the stack is apart from memory its D25 and that the target is not checked its D24 (log entry 9). (41_control_flow.md (CALL nnn), 10_state.md section 5 (B5), 60_exceptions.md section 4 (G4), 92_eei_decisions.md D5, D24, D25, D27.) -/
def Obligations.CallPushesAdvancedPcOrOverflows : Prop :=
  (∀ nnn, decode (wordNNN 0x2 nnn) = .call nnn) ∧
    ∀ (s : State) (nnn : Addr12),
      (∀ k : Fin 16, s.sp.toNat = k.val → ∃ t, exec (.call nnn) s = .next t ∧ endsOk {.stack k, .sp, .pc} s t ∧
        t.stack[k] = s.pc ∧ t.sp.toNat = k.val + 1 ∧ t.pc.toNat = nnn.toNat) ∧
      (s.sp.toNat = 16 → ∃ t, exec (.call nnn) s = .next t ∧ takesFatal (.stackError .overflow) s t)

/-- Encoding 00EE; with SP = k + 1 for an entry k from 0 to 15 RET completes: SP is k, PC is entry k as it is, and only SP and PC change (the popped entry keeps its value); with SP = 0 it takes the fatal StackError(UNDERFLOW) and nothing else changes. The state after the underflow is the spec's own decision D5, that the popped entry keeps its value its D25 and that SP reaches 16 its D27 (log entry 9). (41_control_flow.md (RET), 10_state.md section 5 (B5), 60_exceptions.md section 4 (G4), 92_eei_decisions.md D5, D25, D27.) -/
def Obligations.RetPopsOrUnderflows : Prop :=
  decode 0x00EE = .ret ∧
    ∀ s : State,
      (∀ k : Fin 16, s.sp.toNat = k.val + 1 → ∃ t, exec .ret s = .next t ∧ endsOk {.sp, .pc} s t ∧
        t.sp.toNat = k.val ∧ t.pc = s.stack[k]) ∧
      (s.sp.toNat = 0 → ∃ t, exec .ret s = .next t ∧ takesFatal (.stackError .underflow) s t)

/-- With SP from 17 to 255, outside the legal values, CALL and RET answer the fault stackPointerIllegal; the spec gives no effect there, and that they stop is the model's own choice (notes/assumptions/8.md). That the legal values of SP are 0 to 16 is the spec's own decision D27 (log entry 9). (10_state.md section 4 (SP), 92_eei_decisions.md D27.) -/
def Obligations.IllegalStackPointerStops : Prop :=
  ∀ (s : State) (nnn : Addr12), 16 < s.sp.toNat →
    exec (.call nnn) s = .fault (.stackPointerIllegal s.sp) ∧ exec .ret s = .fault (.stackPointerIllegal s.sp)

/-- Encodings 3xkk, 4xkk, 5xy0, 9xy0; each completes in every state and for all operands; PC is 2 more when the unsigned bytes are equal (SE) or differ (SNE), else as it was; no register and nothing else changes. (R156, R157, R158, R159, R160.) -/
def Obligations.CompareSkipsAdvancePcOnTheirCondition : Prop :=
  (∀ x kk, decode (wordXKK 0x3 x kk) = .seImm x kk ∧ decode (wordXKK 0x4 x kk) = .sneImm x kk) ∧
    (∀ x y, decode (wordXYN 0x5 x y 0) = .seReg x y ∧ decode (wordXYN 0x9 x y 0) = .sneReg x y) ∧
    ∀ (s : State) (x y : Nibble) (kk : Byte),
      (∃ t, exec (.seImm x kk) s = .next t ∧ endsOk {.pc} s t ∧
        t.pc = if (s.readV x).toNat = kk.toNat then s.pc + 2 else s.pc) ∧
      (∃ t, exec (.sneImm x kk) s = .next t ∧ endsOk {.pc} s t ∧
        t.pc = if (s.readV x).toNat ≠ kk.toNat then s.pc + 2 else s.pc) ∧
      (∃ t, exec (.seReg x y) s = .next t ∧ endsOk {.pc} s t ∧
        t.pc = if (s.readV x).toNat = (s.readV y).toNat then s.pc + 2 else s.pc) ∧
      (∃ t, exec (.sneReg x y) s = .next t ∧ endsOk {.pc} s t ∧
        t.pc = if (s.readV x).toNat ≠ (s.readV y).toNat then s.pc + 2 else s.pc)

/-- When the word at PC decodes to a conditional skip (SE, SNE, SKP or SKNP), step answers a next state with PC = pc0 + 4 or pc0 + 2 by its condition, KPREV latched, MODE RUNNING, status OK and nothing else changed; the word skipped over, its decoding and whether it lies in memory do not enter. The low 4 bits of V[x] and the key latch are the spec's own decisions D13 and D14 (log entry 9). (40_step_cycle.md R135, 45_keypad_timers.md section 1, 92_eei_decisions.md D13, D14.) -/
def Obligations.SkipStepAdvancesByFourOrTwo : Prop :=
  ∀ s c, fetches s → skipCondition s (decode s.fetchWord) = some c → ∃ t, step s = .next t ∧
    t.pc.toNat = s.pc.toNat + (if c then 4 else 2) ∧ t.kprev = s.keys ∧ t.mode = .running ∧ t.status = some .ok ∧
    unchangedExcept {.pc, .kprev, .mode, .status} s t

/-- With SP below 16, CALL completes, and RET executed in the state it leaves, with any PC, completes with PC the PC the CALL was executed with (the address after it) and SP as before the CALL; the other stack entries are as before. That the stack is apart from memory is the spec's own decision D25 (log entry 9). (41_control_flow.md (CALL nnn; RET), 10_state.md R24, 95_test_vectors.md S7, 92_eei_decisions.md D25.) -/
def Obligations.CallThenRetRestoresPc : Prop :=
  ∀ (s : State) (nnn : Addr12), s.sp.toNat < 16 → ∃ t, exec (.call nnn) s = .next t ∧
    ∀ w : Word, ∃ u, exec .ret (t.setPc w) = .next u ∧ u.pc = s.pc ∧ u.sp = s.sp ∧
      ∀ k : Fin 16, k.val ≠ s.sp.toNat → u.stack[k] = s.stack[k]

/-- From SP = 0, sixteen executions of CALL in a row complete and leave SP = 16, and a further CALL takes the fatal StackError(OVERFLOW). The state after the overflow is the spec's own decision D5 and that SP reaches 16 its D27 (log entry 9). (41_control_flow.md (CALL nnn), 95_test_vectors.md S7, 92_eei_decisions.md D5, D27.) -/
def Obligations.SeventeenthCallOverflows : Prop :=
  ∀ (s : State) (nnn : Addr12), s.sp = 0 → ∃ t, callTimes nnn 16 s = some t ∧ t.sp.toNat = 16 ∧ t.mode = .running ∧
    ∃ u, exec (.call nnn) t = .next u ∧ takesFatal (.stackError .overflow) t u

/-- Encodings 6xkk, 7xkk, 8xy0; each completes in every state and for all operands, x = 15 included; V[x] becomes kk, (V[x] + kk) mod 256, or V[y]; every other register (VF too unless x = 15) and everything else is unchanged. That LD Vx,Vy and ADD Vx,kk leave VF, and the wrap, are the spec's own decisions D9 and D10 (log entry 9). The low nibble 0 of LD Vx,Vy is its D30, from general knowledge (log entry 9). (42_alu.md sections 2 and 3, 92_eei_decisions.md D9, D10, D30.) -/
def Obligations.LoadsAndAddImmediateWriteVxOnly : Prop :=
  (∀ x kk, decode (wordXKK 0x6 x kk) = .ldImm x kk ∧ decode (wordXKK 0x7 x kk) = .addImm x kk) ∧
    (∀ x y, decode (wordXYN 0x8 x y 0x0) = .ldReg x y) ∧
    ∀ (s : State) (x y : Nibble) (kk : Byte),
      (∃ t, exec (.ldImm x kk) s = .next t ∧ endsOk {.v x} s t ∧ t.readV x = kk) ∧
      (∃ t, exec (.addImm x kk) s = .next t ∧ endsOk {.v x} s t ∧
        (t.readV x).toNat = ((s.readV x).toNat + kk.toNat) % 256) ∧
      (∃ t, exec (.ldReg x y) s = .next t ∧ endsOk {.v x} s t ∧ t.readV x = s.readV y)

/-- Encodings 8xy1, 8xy2, 8xy3; each completes in every state and for all operands; bit b of V[x] becomes the OR, AND or XOR of bit b of the old V[x] and V[y]; no other register (VF too unless x = 15) and nothing else changes. That VF is not written is the spec's own decision D9 (log entry 9). The low nibbles 1, 2 and 3 are its D30, from general knowledge (log entry 9). (42_alu.md section 3, 92_eei_decisions.md D9, D30.) -/
def Obligations.LogicOperationsActBitwiseAndSetNoFlag : Prop :=
  (∀ x y, decode (wordXYN 0x8 x y 0x1) = .or x y ∧ decode (wordXYN 0x8 x y 0x2) = .and x y ∧
      decode (wordXYN 0x8 x y 0x3) = .xor x y) ∧
    ∀ (s : State) (x y : Nibble),
      (∃ t, exec (.or x y) s = .next t ∧ endsOk {.v x} s t ∧
        ∀ b < 8, (t.readV x).getLsbD b = ((s.readV x).getLsbD b || (s.readV y).getLsbD b)) ∧
      (∃ t, exec (.and x y) s = .next t ∧ endsOk {.v x} s t ∧
        ∀ b < 8, (t.readV x).getLsbD b = ((s.readV x).getLsbD b && (s.readV y).getLsbD b)) ∧
      (∃ t, exec (.xor x y) s = .next t ∧ endsOk {.v x} s t ∧
        ∀ b < 8, (t.readV x).getLsbD b = ((s.readV x).getLsbD b ^^ (s.readV y).getLsbD b))

/-- Encoding 8xy4; completes in every state and for all operands; V[x] becomes (V[x] + V[y]) mod 256, also with x = 15, where the result wins over the flag; with x other than 15 VF becomes 1 if the unsigned sum exceeds 255, else 0; only V[x] and VF change. The order of the two writes, which decides x = 15, is the spec's own decision D8, and the low nibble 4 its D30 (log entry 9). (42_alu.md sections 1 and 3 (ADD Vx,Vy), 92_eei_decisions.md D8, D30.) -/
def Obligations.AddRegSetsCarryThenSum : Prop :=
  (∀ x y, decode (wordXYN 0x8 x y 0x4) = .addReg x y) ∧
    ∀ (s : State) (x y : Nibble), ∃ t, exec (.addReg x y) s = .next t ∧ endsOk {.v x, .v 15} s t ∧
      (t.readV x).toNat = ((s.readV x).toNat + (s.readV y).toNat) % 256 ∧
      (x ≠ 15 → t.readV 15 = if 255 < (s.readV x).toNat + (s.readV y).toNat then 1 else 0)

/-- Encodings 8xy5, 8xy7; each completes in every state and for all operands; V[x] becomes V[x] - V[y] (SUB) or V[y] - V[x] (SUBN) modulo 256, also with x = 15; with x other than 15 VF becomes 1 if the minuend is at least the subtrahend (equal operands give 1), else 0; only V[x] and VF change. The order of the two writes, which decides x = 15, is the spec's own decision D8, and the low nibbles 5 and 7 its D30 (log entry 9). (42_alu.md sections 1 and 3 (SUB Vx,Vy; SUBN Vx,Vy), 92_eei_decisions.md D8, D30.) -/
def Obligations.SubtractionsSetNotBorrowThenDifference : Prop :=
  (∀ x y, decode (wordXYN 0x8 x y 0x5) = .sub x y ∧ decode (wordXYN 0x8 x y 0x7) = .subn x y) ∧
    ∀ (s : State) (x y : Nibble),
      (∃ t, exec (.sub x y) s = .next t ∧ endsOk {.v x, .v 15} s t ∧
        ((t.readV x).toNat : Int) = (((s.readV x).toNat : Int) - (s.readV y).toNat) % 256 ∧
        (x ≠ 15 → t.readV 15 = if (s.readV y).toNat ≤ (s.readV x).toNat then 1 else 0)) ∧
      (∃ t, exec (.subn x y) s = .next t ∧ endsOk {.v x, .v 15} s t ∧
        ((t.readV x).toNat : Int) = (((s.readV y).toNat : Int) - (s.readV x).toNat) % 256 ∧
        (x ≠ 15 → t.readV 15 = if (s.readV x).toNat ≤ (s.readV y).toNat then 1 else 0))

/-- Encodings 8xy6, 8xyE with any y; each completes in every state and for all operands; V[x] becomes half of it rounded down (SHR) or twice it modulo 256 (SHL), also with x = 15; with x other than 15 VF becomes the old bit 0 or bit 7; only V[x] and VF change, so V[y] is neither read nor written. The order of the two writes, which decides x = 15, is the spec's own decision D8, and the low nibbles 6 and E its D30 (log entry 9). (42_alu.md sections 1 and 3 (SHR Vx; SHL Vx), 90_conflicts.md C8, 92_eei_decisions.md D8, D30.) -/
def Obligations.ShiftsCaptureTheBitMovedOut : Prop :=
  (∀ x y, decode (wordXYN 0x8 x y 0x6) = .shr x y ∧ decode (wordXYN 0x8 x y 0xE) = .shl x y) ∧
    ∀ (s : State) (x y : Nibble),
      (∃ t, exec (.shr x y) s = .next t ∧ endsOk {.v x, .v 15} s t ∧
        (t.readV x).toNat = (s.readV x).toNat / 2 ∧ (x ≠ 15 → (t.readV 15).toNat = (s.readV x).toNat % 2)) ∧
      (∃ t, exec (.shl x y) s = .next t ∧ endsOk {.v x, .v 15} s t ∧
        (t.readV x).toNat = (s.readV x).toNat * 2 % 256 ∧ (x ≠ 15 → (t.readV 15).toNat = (s.readV x).toNat / 128))

/-- Encoding Cxkk; RND completes in every state and for all operands: V[x] is the next free draw masked with kk, the draw counter (the model's own field) is one more, and nothing else changes; whatever byte is drawn, the result of masking has no bit outside kk and equals the draw for kk = FF. The free draw is the spec's own decision D15; the counter is the model's (log entry 6). (42_alu.md section 4, 00_scope.md section 5 (A5), draw8, 92_eei_decisions.md D15.) -/
def Obligations.RandomByteIsMaskedFreeDraw : Prop :=
  (∀ x kk, decode (wordXKK 0xC x kk) = .rnd x kk) ∧
    (∀ (s : State) (x : Nibble) (kk : Byte), ∃ t, exec (.rnd x kk) s = .next t ∧ endsOk {.v x, .draws} s t ∧
      t.readV x = Config.drawByte s.draws &&& kk ∧ t.readV x &&& ~~~kk = 0 ∧ t.draws = s.draws + 1) ∧
    ∀ (s : State) (x : Nibble) (kk r : Byte),
      (s.setMaskedDraw x kk r).readV x &&& ~~~kk = 0 ∧ (s.setMaskedDraw x 0xFF r).readV x = r

/-- Encodings Annn, Fx1E, Fx29; each completes in every state and for all operands; I becomes nnn, (I + V[x]) mod 65536, or 5 times the low 4 bits of V[x]; no register, VF included, no memory and nothing else changes. The wrap and the unwritten VF (D11), the low 4 bits (D13) and the glyph size (D17) are the spec's own decisions (log entry 9). The low bytes 1E and 29 are its D30, from general knowledge (log entry 9). (43_index_memory.md (LD I,nnn; ADD I,Vx; LD F,Vx), 92_eei_decisions.md D11, D13, D17, D30.) -/
def Obligations.AddressRegisterInstructionsWriteIOnly : Prop :=
  (∀ nnn, decode (wordNNN 0xA nnn) = .ldI nnn) ∧
    (∀ x, decode (wordXKK 0xF x 0x1E) = .addI x ∧ decode (wordXKK 0xF x 0x29) = .ldF x) ∧
    ∀ (s : State) (x : Nibble) (nnn : Addr12),
      (∃ t, exec (.ldI nnn) s = .next t ∧ endsOk {.i} s t ∧ t.i.toNat = nnn.toNat) ∧
      (∃ t, exec (.addI x) s = .next t ∧ endsOk {.i} s t ∧ t.i.toNat = (s.i.toNat + (s.readV x).toNat) % 65536) ∧
      (∃ t, exec (.ldF x) s = .next t ∧ endsOk {.i} s t ∧ t.i.toNat = 5 * ((s.readV x).toNat % 16))

/-- Encoding Fx33; with I at most 4093 it completes and the bytes at I, I + 1, I + 2 are the hundreds, tens and ones of V[x], each as a binary byte, and every other byte of memory and everything else, I and V[x] included, is unchanged; with I above 4093 it takes the fatal MemoryFault(max(I, 4096)) and nothing is written. The fault and its address (D5, D6) and the low byte 33 (D30) are the spec's own (log entry 9). That the reserved region is writable is its decision D21 (log entry 9). (43_index_memory.md (LD B,Vx), 20_memory.md section 4 (C3), 92_eei_decisions.md D5, D6, D21, D30.) -/
def Obligations.BcdStoreWritesThreeDigitsOrFaults : Prop :=
  (∀ x, decode (wordXKK 0xF x 0x33) = .ldB x) ∧
    ∀ (s : State) (x : Nibble),
      (s.i.toNat + 2 < 4096 → ∃ t, exec (.ldB x) s = .next t ∧ endsOk (memRange s 3) s t ∧
        (t.byteAt (s.ea 0)).toNat = (s.readV x).toNat / 100 ∧
        (t.byteAt (s.ea 1)).toNat = (s.readV x).toNat / 10 % 10 ∧
        (t.byteAt (s.ea 2)).toNat = (s.readV x).toNat % 10) ∧
      (4096 ≤ s.i.toNat + 2 →
        ∃ t, exec (.ldB x) s = .next t ∧ takesFatal (.memoryFault (max s.i.toNat 4096)) s t)

/-- Encoding Fx55; with I + x at most 4095 it completes, the byte at I + k is V[k] for every k from 0 to x, and every byte outside those and everything else, I and the registers included, is unchanged; with I + x above 4095 it takes the fatal MemoryFault(max(I, 4096)) and nothing is written. The fault and its address (D5, D6), the unchanged I (D12) and the low byte 55 (D30) are the spec's own (log entry 9). That the reserved region is writable is its decision D21 (log entry 9). (43_index_memory.md (LD [I],Vx), 20_memory.md section 4 (C3), 92_eei_decisions.md D5, D6, D12, D21, D30.) -/
def Obligations.BlockStoreWritesRegistersOrFaults : Prop :=
  (∀ x, decode (wordXKK 0xF x 0x55) = .stRegs x) ∧
    ∀ (s : State) (x : Nibble),
      (s.i.toNat + x.toNat < 4096 → ∃ t, exec (.stRegs x) s = .next t ∧ endsOk (memRange s (x.toNat + 1)) s t ∧
        ∀ r : Nibble, r.toNat ≤ x.toNat → t.byteAt (s.ea r.toNat) = s.readV r) ∧
      (4096 ≤ s.i.toNat + x.toNat →
        ∃ t, exec (.stRegs x) s = .next t ∧ takesFatal (.memoryFault (max s.i.toNat 4096)) s t)

/-- Encoding Fx65; with I + x at most 4095 it completes, V[k] is the byte at I + k for every k from 0 to x, and the registers above x, memory, I and everything else are unchanged; with I + x above 4095 it takes the fatal MemoryFault(max(I, 4096)) and no register is written. The fault and its address (D5, D6), the unchanged I (D12) and the low byte 65 (D30) are the spec's own (log entry 9). That the reserved region is readable is its decision D21 (log entry 9). (43_index_memory.md (LD Vx,[I]), 20_memory.md section 4 (C3), 92_eei_decisions.md D5, D6, D12, D21, D30.) -/
def Obligations.BlockLoadReadsRegistersOrFaults : Prop :=
  (∀ x, decode (wordXKK 0xF x 0x65) = .ldRegs x) ∧
    ∀ (s : State) (x : Nibble),
      (s.i.toNat + x.toNat < 4096 → ∃ t, exec (.ldRegs x) s = .next t ∧
        endsOk {p | ∃ r : Nibble, r.toNat ≤ x.toNat ∧ p = .v r} s t ∧
        ∀ r : Nibble, r.toNat ≤ x.toNat → t.readV r = s.byteAt (s.ea r.toNat)) ∧
      (4096 ≤ s.i.toNat + x.toNat →
        ∃ t, exec (.ldRegs x) s = .next t ∧ takesFatal (.memoryFault (max s.i.toNat 4096)) s t)

/-- With I + x at most 4095, LD [I],Vx completes, and LD Vx,[I] executed in the state it leaves with any register file completes with V0 to Vx as they were stored and the registers above x as they then were. The unchanged I is the spec's own decision D12 (log entry 9). That the reserved region is readable and writable is its decision D21 (log entry 9). (43_index_memory.md (LD [I],Vx; LD Vx,[I]), 20_memory.md R74, 92_eei_decisions.md D12, D21.) -/
def Obligations.BlockLoadAfterBlockStoreRestoresRegisters : Prop :=
  ∀ (s : State) (x : Nibble), s.i.toNat + x.toNat < 4096 → ∃ t, exec (.stRegs x) s = .next t ∧
    ∀ regs : Vector Byte 16, ∃ u, exec (.ldRegs x) { t with v := regs } = .next u ∧
      ∀ r : Nibble, u.readV r = if r.toNat ≤ x.toNat then s.readV r else regs[r.toNat]'r.isLt

/-- Encoding 00E0; CLS completes in every state; every cell is 0 afterwards; every register, VF included, memory and everything else is unchanged. (R220.) -/
def Obligations.ClsClearsEveryCell : Prop :=
  decode 0x00E0 = .cls ∧
    ∀ s : State, ∃ t, exec .cls s = .next t ∧ endsOk {p | ∃ row col, p = .pixel row col} s t ∧
      ∀ row col, pixel t.disp row col = false

/-- Encoding Dxyn; with n = 0 or I + n at most 4096 DRW completes for all operands, x or y = 15 and x = y included: a cell is inverted if some row r below n and bit b of the sprite byte at I + r are set and the cell is ((V[y] mod 32 + r) mod 32, (V[x] mod 64 + b) mod 64), bit 7 leftmost, with the values V[x], V[y] before VF is written; every other cell keeps its value; VF is 1 if one of the inverted cells was 1, else 0; nothing else changes; with n not 0 and I + n above 4096 it takes the fatal MemoryFault(max(I, 4096)) and no cell or register changes. Which bit is leftmost (D18), the fault before any effect (D5) and the error MemoryFault with its address (D5, D6) are the spec's own decisions (log entry 9). That the reserved region is readable is its decision D21 (log entry 9). (44_display.md (DRW Vx,Vy,n; Geometry), 20_memory.md section 4 (C3), 92_eei_decisions.md D5, D6, D18, D21.) -/
def Obligations.DrwXorsSpriteAndReportsCollision : Prop :=
  (∀ x y n, decode (wordXYN 0xD x y n) = .drw x y n) ∧
    ∀ (s : State) (x y n : Nibble),
      (n.toNat = 0 ∨ s.i.toNat + n.toNat ≤ 4096 → ∃ t, exec (.drw x y n) s = .next t ∧
        endsOk ({p | ∃ row col, spriteCovers s x y n row col ∧ p = .pixel row col} ∪ {.v 15}) s t ∧
        (∀ row col, spriteCovers s x y n row col → pixel t.disp row col = !pixel s.disp row col) ∧
        ((∃ row col, spriteCovers s x y n row col ∧ pixel s.disp row col = true) → t.readV 15 = 1) ∧
        ((¬ ∃ row col, spriteCovers s x y n row col ∧ pixel s.disp row col = true) → t.readV 15 = 0)) ∧
      (n.toNat ≠ 0 → 4096 < s.i.toNat + n.toNat →
        ∃ t, exec (.drw x y n) s = .next t ∧ takesFatal (.memoryFault (max s.i.toNat 4096)) s t)

/-- For coordinates not held in VF and a sprite inside memory, DRW executed twice completes both times, every cell is as before, and VF is 1 after the second draw exactly if the sprite has a set bit on a cell that was 0 at first, else 0. The bit order is the spec's own decision D18 (log entry 9). That the reserved region is readable is its decision D21 (log entry 9). (44_display.md (DRW Vx,Vy,n), 95_test_vectors.md S6, 92_eei_decisions.md D18, D21.) -/
def Obligations.DrawingTwiceRestoresTheDisplay : Prop :=
  ∀ (s : State) (x y n : Nibble), x ≠ 15 → y ≠ 15 → s.i.toNat + n.toNat ≤ 4096 →
    ∃ t u, exec (.drw x y n) s = .next t ∧ exec (.drw x y n) t = .next u ∧
      (∀ row col, pixel u.disp row col = pixel s.disp row col) ∧
      ((∃ row col, spriteCovers s x y n row col ∧ pixel s.disp row col = false) → u.readV 15 = 1) ∧
      ((¬ ∃ row col, spriteCovers s x y n row col ∧ pixel s.disp row col = false) → u.readV 15 = 0)

/-- Encodings Ex9E, ExA1; each completes in every state and for all operands; PC is 2 more when key V[x] mod 16 is pressed (SKP) or not pressed (SKNP), else as it was; KPREV is not consulted and nothing else changes. The low 4 bits of V[x] (D13) and the low bytes 9E and A1 (D30) are the spec's own (log entry 9). (45_keypad_timers.md section 1 (SKP Vx; SKNP Vx), 92_eei_decisions.md D13, D30.) -/
def Obligations.KeySkipsTestTheLevelOfTheKey : Prop :=
  (∀ x, decode (wordXKK 0xE x 0x9E) = .skp x ∧ decode (wordXKK 0xE x 0xA1) = .sknp x) ∧
    ∀ (s : State) (x : Nibble),
      (∃ t, exec (.skp x) s = .next t ∧ endsOk {.pc} s t ∧
        t.pc = if s.keys.getLsbD ((s.readV x).toNat % 16) = true then s.pc + 2 else s.pc) ∧
      (∃ t, exec (.sknp x) s = .next t ∧ endsOk {.pc} s t ∧
        t.pc = if s.keys.getLsbD ((s.readV x).toNat % 16) = false then s.pc + 2 else s.pc)

/-- Encoding Fx0A; if k is the lowest key pressed in KEYS and not in KPREV it completes with V[x] = k and nothing else changed; if there is none it answers BLOCKED, PC is 2 less and nothing else but MODE and the status changes; a blocked step leaves PC at the address it was fetched from, MODE BLOCKED, KPREV = KEYS and every other piece, ERR included, unchanged. What a transition is and which key is reported (D14) and the low byte 0A (D30) are the spec's own (log entry 9). (45_keypad_timers.md section 1 (LD Vx,K), 40_step_cycle.md R136, 92_eei_decisions.md D14, D30.) -/
def Obligations.KeyWaitTakesLowestNewKeyOrBlocks : Prop :=
  (∀ x, decode (wordXKK 0xF x 0x0A) = .ldVxK x) ∧
    (∀ (s : State) (x k : Nibble), s.keys.getLsbD k.toNat = true → s.kprev.getLsbD k.toNat = false →
      (∀ j < k.toNat, s.keys.getLsbD j = true → s.kprev.getLsbD j = true) →
      ∃ t, exec (.ldVxK x) s = .next t ∧ endsOk {.v x} s t ∧ (t.readV x).toNat = k.toNat) ∧
    (∀ (s : State) (x : Nibble), (∀ j < 16, s.keys.getLsbD j = true → s.kprev.getLsbD j = true) →
      ∃ t, exec (.ldVxK x) s = .next t ∧ t.mode = .blocked ∧ t.status = some .blocked ∧ t.pc = s.pc - 2 ∧
        unchangedExcept {.pc, .mode, .status} s t) ∧
    ∀ (s : State) (x : Nibble), fetches s → decode s.fetchWord = .ldVxK x →
      (∀ j < 16, s.keys.getLsbD j = true → s.kprev.getLsbD j = true) →
      ∃ t, step s = .next t ∧ t.mode = .blocked ∧ t.status = some .blocked ∧ t.kprev = s.keys ∧
        unchangedExcept {.mode, .status, .kprev} s t

/-- Encodings Fx07, Fx15, Fx18; each completes in every state and for all x; V[x] becomes DT, DT becomes V[x], ST becomes V[x]; only that one register changes. The low bytes 07, 15 and 18 are the spec's own D30 (log entry 9). (45_keypad_timers.md section 2, 92_eei_decisions.md D30.) -/
def Obligations.TimerInstructionsMoveOneByte : Prop :=
  (∀ x, decode (wordXKK 0xF x 0x07) = .ldVxDt x ∧ decode (wordXKK 0xF x 0x15) = .ldDtVx x ∧
      decode (wordXKK 0xF x 0x18) = .ldStVx x) ∧
    ∀ (s : State) (x : Nibble),
      (∃ t, exec (.ldVxDt x) s = .next t ∧ endsOk {.v x} s t ∧ t.readV x = s.dt) ∧
      (∃ t, exec (.ldDtVx x) s = .next t ∧ endsOk {.dt} s t ∧ t.dt = s.readV x) ∧
      (∃ t, exec (.ldStVx x) s = .next t ∧ endsOk {.st} s t ∧ t.st = s.readV x)

/-- For every raw word and state: under UNKNOWN_POLICY = FATAL MODE becomes HALTED, ERR DecodeError(raw); under NOP MODE is RUNNING and ERR is unchanged; under both the status is DecodeError(raw) and nothing else changes, PC included; a word is UNKNOWN when it is none of the 35 instructions. The open policy and DecodeError as the status under both its values are the spec's own decision D19, the state after the error its D5, and which words are UNKNOWN rests on the sub-opcode numbers D30 (log entry 9). (60_exceptions.md section 1 (G1), 30_encoding.md section 5 (E4), 92_eei_decisions.md D5, D19, D30.) -/
def Obligations.UnknownRaisesDecodeErrorByPolicy : Prop :=
  (∀ op, isUnknownWord op = true → decode op = .unknown op) ∧
    (∀ (s : State) (raw : Word), s.params.unknownPolicy = .fatal →
      ∃ t, exec (.unknown raw) s = .next t ∧ takesFatal (.decodeError raw) s t) ∧
    ∀ (s : State) (raw : Word), s.params.unknownPolicy = .nop →
      ∃ t, exec (.unknown raw) s = .next t ∧ t.mode = .running ∧ t.status = some (.error (.decodeError raw)) ∧
        unchangedExcept {.mode, .status} s t

/-- The state after construction or reset meets the invariant: memory canonical, SP at most 16, ERR NONE exactly when not HALTED, the status the stored error when HALTED, PC and return addresses bounded. The status latch is the model's own (log entry 7). MODE RUNNING and ERR NONE at reset (D3), ERR as the record of HALTED (D4) and the legal values of SP (D27) are the spec's own decisions (log entry 9); that no program is loaded then is the model's LOADED (log entry 2). (10_state.md R27, R32, R36, R57, 92_eei_decisions.md D3, D4, D27.) -/
def Obligations.ResetMeetsTheInvariant : Prop :=
  MachineInv State.reset ∧ ∀ p draws, MachineInv (State.resetWith p draws)

/-- For every state that meets the invariant, reached or not, a next state of step meets it: memory stays in its canonical form, SP stays from 0 to 16, ERR is NONE exactly when MODE is not HALTED, a halted state's status is its stored error, PC stays at most 0x10FE, and every return address in use stays at most 0x1000. ERR with HALTED (D4), the precise errors (D5), the unchecked targets behind the bound on PC (D24) and the legal SP (D27) are the spec's own decisions (log entry 9); the canonical form and the status latch are the model's (log entry 7). Whether UNKNOWN halts is its open policy D19, and LOADED is the model's (log entry 2). (10_state.md R27, R32, 10_state.md section 4 (MODE, ERR), 20_memory.md R60, 60_exceptions.md R259, 92_eei_decisions.md D4, D5, D19, D24, D27.) -/
def Obligations.StepKeepsTheInvariant : Prop :=
  ∀ s t, MachineInv s → step s = .next t → MachineInv t

/-- Reset, Load of any byte sequence, SetKey, TimerWrite and TimerTick each lead from a state that meets the invariant to one that meets it. MODE and ERR after Load (D3), what Load leaves (D26) and the tick (D20) are the spec's own decisions (log entry 9); the moves between steps are log entry 12. ERR as the record of HALTED (D4) and the legal values of SP (D27) are its own decisions too (log entry 9); LOADED and the status latch are the model's (log entries 2 and 7). (10_state.md R53, 10_state.md section 8, 70_reset_and_hazards.md R290, 70_reset_and_hazards.md section 2 (I2), 60_exceptions.md R276, 92_eei_decisions.md D3, D4, D20, D26, D27.) -/
def Obligations.HostMovesKeepTheInvariant : Prop :=
  ∀ m s t, m ≠ .step → MachineInv s → applyMove m s = .next t → MachineInv t

/-- For every state that meets the invariant and has a program loaded, whatever the bytes at PC, the mode and the operands, step answers a next state; no step of it ends in the model's fault or a refusal. That a step in HALTED reports and goes no further (D4), the precise errors and MemoryFault (D5, D6), the open policy (D19) and the legal values of SP (D27) are the spec's own decisions (log entry 9); LOADED is the model's (log entry 2), and SP above 16, which the invariant rules out, is log entry 8. (40_step_cycle.md R131, R137, 60_exceptions.md R256, R259, 92_eei_decisions.md D4, D5, D6, D19, D27.) -/
def Obligations.StepAnswersANextStateOnceLoaded : Prop :=
  ∀ s, MachineInv s → s.loaded = true → ∃ t, step s = .next t

/-- Every state reached from construction by any sequence of steps, Resets, Loads, SetKeys, TimerWrites and TimerTicks, for every FONT_ROM and UNKNOWN_POLICY, meets the invariant, and once a program is loaded its next step answers a next state. ERR with HALTED (D4), the precise errors (D5) and the legal SP (D27) are the spec's own decisions (log entry 9); the moves between steps are log entry 12. MODE and ERR after Reset and Load (D3), the open policy (D19), the tick (D20), the unchecked targets behind the bound on PC (D24) and what Load leaves (D26) are its own decisions too (log entry 9); LOADED and the status latch are the model's (log entries 2 and 7). (10_state.md R27, R32, 10_state.md section 4 (MODE, ERR), 60_exceptions.md R276, 92_eei_decisions.md D3, D4, D5, D19, D20, D24, D26, D27.) -/
def Obligations.EveryReachableStateMeetsTheInvariant : Prop :=
  ∀ s, Reachable s → MachineInv s ∧ (s.loaded = true → ∃ t, step s = .next t)

/-- Whatever instruction is executed (PC already advanced by the fetch): the keys, KPREV, LOADED and the open parameters never change; a changed PC means JP, CALL, RET, JP V0, a conditional skip whose condition holds, or an LD Vx,K that blocks; MODE and the status are RUNNING with OK, or BLOCKED with BLOCKED for LD Vx,K only, or an error e that the instruction can raise with MODE HALTED if e is fatal and RUNNING if not; a changed ERR means a fatal e was taken and ERR is e; a changed DT means LD DT,Vx, a changed ST LD ST,Vx, a changed I LD I, ADD I or LD F, a changed cell CLS or DRW, a changed stack entry CALL, a changed SP CALL or RET, a changed memory byte LD B or LD [I],Vx, a changed draw counter RND. ERR kept for a step in HALTED (D4), the precise errors (D5), the unchanged I of the block transfers (D12), the key latch (D14), the open policy (D19) and the stack apart from memory (D25) are the spec's own decisions (log entry 9); LOADED, the parameters, the draw counter and the status latch are the model's (log entries 2, 4, 5, 6, 7). The low 4 bits of V[x] in the key skips are its decision D13 (log entry 9). (10_state.md R24, R25, R31, R32, R33, R34, R38, R42, R43, R47, 10_state.md sections 4 (MODE, ERR), 5, 6 and 7, 60_exceptions.md R258, R259, 92_eei_decisions.md D4, D5, D12, D13, D14, D19, D25.) -/
def Obligations.OnlyDedicatedInstructionsWriteEachPiece : Prop :=
  ∀ i s t, exec i s = .next t →
    (t.keys = s.keys ∧ t.kprev = s.kprev ∧ t.loaded = s.loaded ∧ t.params = s.params) ∧
    (t.pc ≠ s.pc → (∃ nnn, i = .jp nnn) ∨ (∃ nnn, i = .call nnn) ∨ i = .ret ∨ (∃ nnn, i = .jpV0 nnn) ∨
      skipCondition s i = some true ∨ ((∃ x, i = .ldVxK x) ∧ t.status = some .blocked)) ∧
    ((t.mode = .running ∧ t.status = some .ok) ∨ (t.mode = .blocked ∧ t.status = some .blocked ∧ ∃ x, i = .ldVxK x) ∨
      ∃ e, mayRaise i e ∧ t.status = some (.error e) ∧ t.mode = if isFatal s.params e = true then .halted else .running) ∧
    (t.err ≠ s.err → ∃ e, mayRaise i e ∧ isFatal s.params e = true ∧ t.status = some (.error e) ∧ t.err = some e) ∧
    (t.dt ≠ s.dt → ∃ x, i = .ldDtVx x) ∧ (t.st ≠ s.st → ∃ x, i = .ldStVx x) ∧
    (t.i ≠ s.i → (∃ nnn, i = .ldI nnn) ∨ (∃ x, i = .addI x) ∨ ∃ x, i = .ldF x) ∧
    (∀ row col, pixel t.disp row col ≠ pixel s.disp row col → i = .cls ∨ ∃ x y n, i = .drw x y n) ∧
    (∀ k : Fin 16, t.stack[k] ≠ s.stack[k] → ∃ nnn, i = .call nnn) ∧
    (t.sp ≠ s.sp → (∃ nnn, i = .call nnn) ∨ i = .ret) ∧
    (∀ a, t.byteAt a ≠ s.byteAt a → (∃ x, i = .ldB x) ∨ ∃ x, i = .stRegs x) ∧
    (t.draws ≠ s.draws → ∃ x kk, i = .rnd x kk)

/-- Whatever instruction is executed, a general register that differs afterwards is the V[x] the instruction writes, one of V[0] to V[x] for LD Vx,[I], or VF for the five flag-writing ALU instructions and DRW; so VF is not written by any instruction the flag table does not list, unless it is the destination. The instructions that leave VF are the spec's own decisions D9 to D11 (log entry 9). (10_state.md R22, R28, R30, 92_eei_decisions.md D9, D10, D11.) -/
def Obligations.RegistersAreWrittenAsTheTableSays : Prop :=
  ∀ i s t r, exec i s = .next t → t.readV r ≠ s.readV r → mayWriteV i r

/-- For every state and every value put in ST, the step does the same: it refuses or faults the same way, or answers the same next state up to the value of ST. (10_state.md R34.) -/
def Obligations.SoundTimerIsInvisibleToTheCore : Prop :=
  ∀ s b, (∀ t, step s = .next t → ∃ c, step (s.setSt b) = .next (t.setSt c)) ∧
    (∀ f, step s = .fault f → step (s.setSt b) = .fault f) ∧
    ∀ r, step s = .refused r → step (s.setSt b) = .refused r

/-- For every state, step with MODE BLOCKED gives exactly what step with MODE RUNNING gives: no rule's behaviour depends on BLOCKED. It is the spec's own decision D29 (log entry 9). (40_step_cycle.md R136, 92_eei_decisions.md D29.) -/
def Obligations.StepInBlockedIsAnOrdinaryStep : Prop :=
  ∀ s : State, step { s with mode := .blocked } = step { s with mode := .running }

/-- A next state of a step not taken in HALTED, whether its status is OK, BLOCKED or an error, has KPREV equal to KEYS and KEYS unchanged, so the set of newly pressed keys is empty; a step in HALTED leaves KPREV and KEYS. The key latch and the unchanged latch in HALTED are the spec's own decisions D14 and D4 (log entry 9). (40_step_cycle.md (KPREV, the last action of a step), 10_state.md section 7 (B7), 92_eei_decisions.md D14, D4.) -/
def Obligations.EveryLiveStepLatchesTheKeys : Prop :=
  ∀ s t, step s = .next t → t.keys = s.keys ∧
    (s.mode ≠ .halted → t.kprev = s.keys ∧ t.newKeys = 0) ∧ (s.mode = .halted → t.kprev = s.kprev)

/-- The status of such a step is OK with MODE RUNNING and ERR unchanged, or BLOCKED with MODE BLOCKED and ERR unchanged, or an error e: MODE HALTED and ERR = e, but for DecodeError under UNKNOWN_POLICY = NOP, where MODE is RUNNING and ERR unchanged. The status is read from the model's latch (log entry 7). ERR as the record of HALTED (D4), the precise errors (D5) and the open policy (D19) are the spec's own decisions (log entry 9). (40_step_cycle.md R131, R136, R137, 60_exceptions.md R259, R264, 92_eei_decisions.md D4, D5, D19.) -/
def Obligations.ModeAndErrorFollowTheStatus : Prop :=
  ∀ s t, s.mode ≠ .halted → step s = .next t →
    (t.status = some .ok ∧ t.mode = .running ∧ t.err = s.err) ∨
    (t.status = some .blocked ∧ t.mode = .blocked ∧ t.err = s.err) ∨
    (∃ e, t.status = some (.error e) ∧ t.mode = .halted ∧ t.err = some e ∧
      ((∃ raw, e = .decodeError raw) → s.params.unknownPolicy = .fatal)) ∨
    (∃ raw, t.status = some (.error (.decodeError raw)) ∧ s.params.unknownPolicy = .nop ∧ t.mode = .running ∧
      t.err = s.err)

/-- When a step fetched an instruction and its status is an error e, PC is 2 more, KPREV is KEYS, ERR changes only for a fatal e, and every register, I, SP, the stack, memory, the display and the timers are unchanged; and e is one the instruction can raise: DecodeError for UNKNOWN, StackError for CALL and RET, MemoryFault for DRW, LD B, LD [I],Vx and LD Vx,[I], none for the others. The precise state after an error is the spec's own decision D5 (log entry 9). MemoryFault (D6), the key latch (D14) and the open policy (D19) are its own decisions too (log entry 9). (60_exceptions.md section 4 (G4), 60_exceptions.md R258, 92_eei_decisions.md D5, D6, D14, D19.) -/
def Obligations.ExecutePhaseExceptionsArePrecise : Prop :=
  ∀ s t e, fetches s → step s = .next t → t.status = some (.error e) →
    t.pc.toNat = s.pc.toNat + 2 ∧ t.kprev = s.keys ∧ unchangedExcept {.pc, .mode, .err, .status, .kprev} s t ∧
    (isFatal s.params e = false → t.err = s.err) ∧ mayRaise (decode s.fetchWord) e

/-- When the word at PC is LD [I],Vx with x at least 1 and I = PC + 2 inside memory, the step answers a next state that fetches at PC + 2 the word with V0 in bits 15 to 8 and V1 in bits 7 to 0. It is the spec's own decision D23 (log entry 9). That the reserved region and odd addresses are stored to and fetched is its D21 and D22 (log entry 9). (20_memory.md R63, R78, 43_index_memory.md (LD [I],Vx), 92_eei_decisions.md D21, D22, D23.) -/
def Obligations.SelfModifyingStoreIsSeenByTheNextFetch : Prop :=
  ∀ s x, fetches s → decode s.fetchWord = .stRegs x → 1 ≤ x.toNat → s.i.toNat = s.pc.toNat + 2 →
    s.i.toNat + x.toNat < 4096 → ∃ t, step s = .next t ∧ fetches t ∧ t.pc.toNat = s.pc.toNat + 2 ∧
      t.fetchWord.toNat = 256 * (s.readV 0).toNat + (s.readV 1).toNat

/-- When the word at PC is JP nnn with nnn = PC, the step answers a next state with MODE RUNNING and KPREV = KEYS in which every other piece, PC included, is unchanged. The key latch is the spec's own decision D14 (log entry 9). That the reserved region and odd addresses are fetched is its D21 and D22 (log entry 9). (40_step_cycle.md R140, 41_control_flow.md (JP nnn), 92_eei_decisions.md D14, D21, D22.) -/
def Obligations.SelfJumpIdles : Prop :=
  ∀ s nnn, fetches s → decode s.fetchWord = .jp nnn → nnn.toNat = s.pc.toNat → ∃ t, step s = .next t ∧
    t.mode = .running ∧ t.kprev = s.keys ∧ unchangedExcept {.kprev, .mode, .status} s t

/-- After SetKey(k, v) key k is v, every other key is as before, and every piece but KEYS is unchanged, KPREV, MODE and PC in particular. (R53.) -/
def Obligations.SetKeyWritesOneKey : Prop :=
  ∀ k down s, (hostSetKey k down s).keyDown k = down ∧
    (∀ j, j ≠ k → (hostSetKey k down s).keyDown j = s.keyDown j) ∧ unchangedExcept {.keys} s (hostSetKey k down s)

/-- TimerWrite(DT, v) makes DT v and changes nothing else, TimerWrite(ST, v) likewise ST; TimerTick makes each timer one less if it was above 0 and leaves it at 0 else, and changes nothing else. That a tick stops at zero is the spec's own decision D20 (log entry 9). (10_state.md section 8, 92_eei_decisions.md D20.) -/
def Obligations.TimerMovesWriteTheTimersOnly : Prop :=
  (∀ b s, (hostTimerWrite .dt b s).dt = b ∧ unchangedExcept {.dt} s (hostTimerWrite .dt b s) ∧
      (hostTimerWrite .st b s).st = b ∧ unchangedExcept {.st} s (hostTimerWrite .st b s)) ∧
    ∀ s, (hostTimerTick s).dt.toNat = s.dt.toNat - 1 ∧ (hostTimerTick s).st.toNat = s.st.toNat - 1 ∧
      unchangedExcept {.dt, .st} s (hostTimerTick s)

/-- ReadTimer(DT) is DT and ReadTimer(ST) is ST; ReadDisplay has 2048 entries and the entry at row * 64 + col is DISP[row][col]; both are functions of the state and change none. The position row * 64 + col is the spec's own decision D18 (log entry 9). (10_state.md section 8, 10_state.md section 6 (B6), 92_eei_decisions.md D18.) -/
def Obligations.ReadsReturnTimersAndCellsInOrder : Prop :=
  (∀ s, hostReadTimer .dt s = s.dt ∧ hostReadTimer .st s = s.st) ∧
    ∀ s, (hostReadDisplay s).length = 2048 ∧
      ∀ row col, (hostReadDisplay s)[row.val * 64 + col.val]? = some (pixel s.disp row col)
end

