-- ==== Sys2Proof/Laws/State.lean ====
section
/-! SUPPORT. One lemma per field per named update of the state, and the general registers and memory bytes seen
through each update, so that no later proof unfolds a record update. -/

namespace Sys2Proof.Machine

section
variable (s : State) (x : Nibble) (b : Byte)

@[simp] theorem State.setV_v : (s.setV x b).v = s.v.set x.toNat b x.isLt := rfl
@[simp] theorem State.setV_i : (s.setV x b).i = s.i := rfl
@[simp] theorem State.setV_pc : (s.setV x b).pc = s.pc := rfl
@[simp] theorem State.setV_sp : (s.setV x b).sp = s.sp := rfl
@[simp] theorem State.setV_stack : (s.setV x b).stack = s.stack := rfl
@[simp] theorem State.setV_dt : (s.setV x b).dt = s.dt := rfl
@[simp] theorem State.setV_st : (s.setV x b).st = s.st := rfl
@[simp] theorem State.setV_mem : (s.setV x b).mem = s.mem := rfl
@[simp] theorem State.setV_disp : (s.setV x b).disp = s.disp := rfl
@[simp] theorem State.setV_keys : (s.setV x b).keys = s.keys := rfl
@[simp] theorem State.setV_kprev : (s.setV x b).kprev = s.kprev := rfl
@[simp] theorem State.setV_mode : (s.setV x b).mode = s.mode := rfl
@[simp] theorem State.setV_err : (s.setV x b).err = s.err := rfl
@[simp] theorem State.setV_loaded : (s.setV x b).loaded = s.loaded := rfl
@[simp] theorem State.setV_status : (s.setV x b).status = s.status := rfl
@[simp] theorem State.setV_draws : (s.setV x b).draws = s.draws := rfl
@[simp] theorem State.setV_params : (s.setV x b).params = s.params := rfl
@[simp] theorem State.setV_byteAt (addr : Nat) : (s.setV x b).byteAt addr = s.byteAt addr := rfl
@[simp] theorem State.setV_ea (off : Nat) : (s.setV x b).ea off = s.ea off := rfl

end

section
variable (s : State) (w : Word)

@[simp] theorem State.setI_v : (s.setI w).v = s.v := rfl
@[simp] theorem State.setI_i : (s.setI w).i = w := rfl
@[simp] theorem State.setI_pc : (s.setI w).pc = s.pc := rfl
@[simp] theorem State.setI_sp : (s.setI w).sp = s.sp := rfl
@[simp] theorem State.setI_stack : (s.setI w).stack = s.stack := rfl
@[simp] theorem State.setI_dt : (s.setI w).dt = s.dt := rfl
@[simp] theorem State.setI_st : (s.setI w).st = s.st := rfl
@[simp] theorem State.setI_mem : (s.setI w).mem = s.mem := rfl
@[simp] theorem State.setI_disp : (s.setI w).disp = s.disp := rfl
@[simp] theorem State.setI_keys : (s.setI w).keys = s.keys := rfl
@[simp] theorem State.setI_kprev : (s.setI w).kprev = s.kprev := rfl
@[simp] theorem State.setI_mode : (s.setI w).mode = s.mode := rfl
@[simp] theorem State.setI_err : (s.setI w).err = s.err := rfl
@[simp] theorem State.setI_loaded : (s.setI w).loaded = s.loaded := rfl
@[simp] theorem State.setI_status : (s.setI w).status = s.status := rfl
@[simp] theorem State.setI_draws : (s.setI w).draws = s.draws := rfl
@[simp] theorem State.setI_params : (s.setI w).params = s.params := rfl
@[simp] theorem State.setI_readV (r : Nibble) : (s.setI w).readV r = s.readV r := rfl
@[simp] theorem State.setI_byteAt (addr : Nat) : (s.setI w).byteAt addr = s.byteAt addr := rfl

end

section
variable (s : State) (w : Word)

@[simp] theorem State.setPc_v : (s.setPc w).v = s.v := rfl
@[simp] theorem State.setPc_i : (s.setPc w).i = s.i := rfl
@[simp] theorem State.setPc_pc : (s.setPc w).pc = w := rfl
@[simp] theorem State.setPc_sp : (s.setPc w).sp = s.sp := rfl
@[simp] theorem State.setPc_stack : (s.setPc w).stack = s.stack := rfl
@[simp] theorem State.setPc_dt : (s.setPc w).dt = s.dt := rfl
@[simp] theorem State.setPc_st : (s.setPc w).st = s.st := rfl
@[simp] theorem State.setPc_mem : (s.setPc w).mem = s.mem := rfl
@[simp] theorem State.setPc_disp : (s.setPc w).disp = s.disp := rfl
@[simp] theorem State.setPc_keys : (s.setPc w).keys = s.keys := rfl
@[simp] theorem State.setPc_kprev : (s.setPc w).kprev = s.kprev := rfl
@[simp] theorem State.setPc_mode : (s.setPc w).mode = s.mode := rfl
@[simp] theorem State.setPc_err : (s.setPc w).err = s.err := rfl
@[simp] theorem State.setPc_loaded : (s.setPc w).loaded = s.loaded := rfl
@[simp] theorem State.setPc_status : (s.setPc w).status = s.status := rfl
@[simp] theorem State.setPc_draws : (s.setPc w).draws = s.draws := rfl
@[simp] theorem State.setPc_params : (s.setPc w).params = s.params := rfl
@[simp] theorem State.setPc_readV (r : Nibble) : (s.setPc w).readV r = s.readV r := rfl
@[simp] theorem State.setPc_byteAt (addr : Nat) : (s.setPc w).byteAt addr = s.byteAt addr := rfl
@[simp] theorem State.setPc_ea (off : Nat) : (s.setPc w).ea off = s.ea off := rfl

end

section
variable (s : State) (b : Byte)

@[simp] theorem State.setDt_v : (s.setDt b).v = s.v := rfl
@[simp] theorem State.setDt_i : (s.setDt b).i = s.i := rfl
@[simp] theorem State.setDt_pc : (s.setDt b).pc = s.pc := rfl
@[simp] theorem State.setDt_sp : (s.setDt b).sp = s.sp := rfl
@[simp] theorem State.setDt_stack : (s.setDt b).stack = s.stack := rfl
@[simp] theorem State.setDt_dt : (s.setDt b).dt = b := rfl
@[simp] theorem State.setDt_st : (s.setDt b).st = s.st := rfl
@[simp] theorem State.setDt_mem : (s.setDt b).mem = s.mem := rfl
@[simp] theorem State.setDt_disp : (s.setDt b).disp = s.disp := rfl
@[simp] theorem State.setDt_keys : (s.setDt b).keys = s.keys := rfl
@[simp] theorem State.setDt_kprev : (s.setDt b).kprev = s.kprev := rfl
@[simp] theorem State.setDt_mode : (s.setDt b).mode = s.mode := rfl
@[simp] theorem State.setDt_err : (s.setDt b).err = s.err := rfl
@[simp] theorem State.setDt_loaded : (s.setDt b).loaded = s.loaded := rfl
@[simp] theorem State.setDt_status : (s.setDt b).status = s.status := rfl
@[simp] theorem State.setDt_draws : (s.setDt b).draws = s.draws := rfl
@[simp] theorem State.setDt_params : (s.setDt b).params = s.params := rfl
@[simp] theorem State.setDt_readV (r : Nibble) : (s.setDt b).readV r = s.readV r := rfl
@[simp] theorem State.setDt_byteAt (addr : Nat) : (s.setDt b).byteAt addr = s.byteAt addr := rfl
@[simp] theorem State.setDt_ea (off : Nat) : (s.setDt b).ea off = s.ea off := rfl

end

section
variable (s : State) (b : Byte)

@[simp] theorem State.setSt_v : (s.setSt b).v = s.v := rfl
@[simp] theorem State.setSt_i : (s.setSt b).i = s.i := rfl
@[simp] theorem State.setSt_pc : (s.setSt b).pc = s.pc := rfl
@[simp] theorem State.setSt_sp : (s.setSt b).sp = s.sp := rfl
@[simp] theorem State.setSt_stack : (s.setSt b).stack = s.stack := rfl
@[simp] theorem State.setSt_dt : (s.setSt b).dt = s.dt := rfl
@[simp] theorem State.setSt_st : (s.setSt b).st = b := rfl
@[simp] theorem State.setSt_mem : (s.setSt b).mem = s.mem := rfl
@[simp] theorem State.setSt_disp : (s.setSt b).disp = s.disp := rfl
@[simp] theorem State.setSt_keys : (s.setSt b).keys = s.keys := rfl
@[simp] theorem State.setSt_kprev : (s.setSt b).kprev = s.kprev := rfl
@[simp] theorem State.setSt_mode : (s.setSt b).mode = s.mode := rfl
@[simp] theorem State.setSt_err : (s.setSt b).err = s.err := rfl
@[simp] theorem State.setSt_loaded : (s.setSt b).loaded = s.loaded := rfl
@[simp] theorem State.setSt_status : (s.setSt b).status = s.status := rfl
@[simp] theorem State.setSt_draws : (s.setSt b).draws = s.draws := rfl
@[simp] theorem State.setSt_params : (s.setSt b).params = s.params := rfl
@[simp] theorem State.setSt_readV (r : Nibble) : (s.setSt b).readV r = s.readV r := rfl
@[simp] theorem State.setSt_byteAt (addr : Nat) : (s.setSt b).byteAt addr = s.byteAt addr := rfl
@[simp] theorem State.setSt_ea (off : Nat) : (s.setSt b).ea off = s.ea off := rfl

end

section
variable (s : State) (d : Display)

@[simp] theorem State.setDisp_v : (s.setDisp d).v = s.v := rfl
@[simp] theorem State.setDisp_i : (s.setDisp d).i = s.i := rfl
@[simp] theorem State.setDisp_pc : (s.setDisp d).pc = s.pc := rfl
@[simp] theorem State.setDisp_sp : (s.setDisp d).sp = s.sp := rfl
@[simp] theorem State.setDisp_stack : (s.setDisp d).stack = s.stack := rfl
@[simp] theorem State.setDisp_dt : (s.setDisp d).dt = s.dt := rfl
@[simp] theorem State.setDisp_st : (s.setDisp d).st = s.st := rfl
@[simp] theorem State.setDisp_mem : (s.setDisp d).mem = s.mem := rfl
@[simp] theorem State.setDisp_disp : (s.setDisp d).disp = d := rfl
@[simp] theorem State.setDisp_keys : (s.setDisp d).keys = s.keys := rfl
@[simp] theorem State.setDisp_kprev : (s.setDisp d).kprev = s.kprev := rfl
@[simp] theorem State.setDisp_mode : (s.setDisp d).mode = s.mode := rfl
@[simp] theorem State.setDisp_err : (s.setDisp d).err = s.err := rfl
@[simp] theorem State.setDisp_loaded : (s.setDisp d).loaded = s.loaded := rfl
@[simp] theorem State.setDisp_status : (s.setDisp d).status = s.status := rfl
@[simp] theorem State.setDisp_draws : (s.setDisp d).draws = s.draws := rfl
@[simp] theorem State.setDisp_params : (s.setDisp d).params = s.params := rfl
@[simp] theorem State.setDisp_readV (r : Nibble) : (s.setDisp d).readV r = s.readV r := rfl
@[simp] theorem State.setDisp_byteAt (addr : Nat) : (s.setDisp d).byteAt addr = s.byteAt addr := rfl
@[simp] theorem State.setDisp_ea (off : Nat) : (s.setDisp d).ea off = s.ea off := rfl

end

section
variable (s : State) (a : Nat) (b : Byte)

@[simp] theorem State.setByte_v : (s.setByte a b).v = s.v := rfl
@[simp] theorem State.setByte_i : (s.setByte a b).i = s.i := rfl
@[simp] theorem State.setByte_pc : (s.setByte a b).pc = s.pc := rfl
@[simp] theorem State.setByte_sp : (s.setByte a b).sp = s.sp := rfl
@[simp] theorem State.setByte_stack : (s.setByte a b).stack = s.stack := rfl
@[simp] theorem State.setByte_dt : (s.setByte a b).dt = s.dt := rfl
@[simp] theorem State.setByte_st : (s.setByte a b).st = s.st := rfl
@[simp] theorem State.setByte_mem : (s.setByte a b).mem = Memory.write s.params s.mem a b := rfl
@[simp] theorem State.setByte_disp : (s.setByte a b).disp = s.disp := rfl
@[simp] theorem State.setByte_keys : (s.setByte a b).keys = s.keys := rfl
@[simp] theorem State.setByte_kprev : (s.setByte a b).kprev = s.kprev := rfl
@[simp] theorem State.setByte_mode : (s.setByte a b).mode = s.mode := rfl
@[simp] theorem State.setByte_err : (s.setByte a b).err = s.err := rfl
@[simp] theorem State.setByte_loaded : (s.setByte a b).loaded = s.loaded := rfl
@[simp] theorem State.setByte_status : (s.setByte a b).status = s.status := rfl
@[simp] theorem State.setByte_draws : (s.setByte a b).draws = s.draws := rfl
@[simp] theorem State.setByte_params : (s.setByte a b).params = s.params := rfl
@[simp] theorem State.setByte_readV (r : Nibble) : (s.setByte a b).readV r = s.readV r := rfl
@[simp] theorem State.setByte_ea (off : Nat) : (s.setByte a b).ea off = s.ea off := rfl

end

section
variable (s : State) (x : Nibble) (f r : Byte)

@[simp] theorem State.setFlagThenV_v : (s.setFlagThenV x f r).v = ((s.setV vf f).setV x r).v := rfl
@[simp] theorem State.setFlagThenV_i : (s.setFlagThenV x f r).i = s.i := rfl
@[simp] theorem State.setFlagThenV_pc : (s.setFlagThenV x f r).pc = s.pc := rfl
@[simp] theorem State.setFlagThenV_sp : (s.setFlagThenV x f r).sp = s.sp := rfl
@[simp] theorem State.setFlagThenV_stack : (s.setFlagThenV x f r).stack = s.stack := rfl
@[simp] theorem State.setFlagThenV_dt : (s.setFlagThenV x f r).dt = s.dt := rfl
@[simp] theorem State.setFlagThenV_st : (s.setFlagThenV x f r).st = s.st := rfl
@[simp] theorem State.setFlagThenV_mem : (s.setFlagThenV x f r).mem = s.mem := rfl
@[simp] theorem State.setFlagThenV_disp : (s.setFlagThenV x f r).disp = s.disp := rfl
@[simp] theorem State.setFlagThenV_keys : (s.setFlagThenV x f r).keys = s.keys := rfl
@[simp] theorem State.setFlagThenV_kprev : (s.setFlagThenV x f r).kprev = s.kprev := rfl
@[simp] theorem State.setFlagThenV_mode : (s.setFlagThenV x f r).mode = s.mode := rfl
@[simp] theorem State.setFlagThenV_err : (s.setFlagThenV x f r).err = s.err := rfl
@[simp] theorem State.setFlagThenV_loaded : (s.setFlagThenV x f r).loaded = s.loaded := rfl
@[simp] theorem State.setFlagThenV_status : (s.setFlagThenV x f r).status = s.status := rfl
@[simp] theorem State.setFlagThenV_draws : (s.setFlagThenV x f r).draws = s.draws := rfl
@[simp] theorem State.setFlagThenV_params : (s.setFlagThenV x f r).params = s.params := rfl
@[simp] theorem State.setFlagThenV_byteAt (addr : Nat) : (s.setFlagThenV x f r).byteAt addr = s.byteAt addr := rfl
@[simp] theorem State.setFlagThenV_ea (off : Nat) : (s.setFlagThenV x f r).ea off = s.ea off := rfl

end

section
variable (s : State) (x : Nibble) (kk r : Byte)

@[simp] theorem State.setMaskedDraw_v : (s.setMaskedDraw x kk r).v = (s.setV x (r &&& kk)).v := rfl
@[simp] theorem State.setMaskedDraw_i : (s.setMaskedDraw x kk r).i = s.i := rfl
@[simp] theorem State.setMaskedDraw_pc : (s.setMaskedDraw x kk r).pc = s.pc := rfl
@[simp] theorem State.setMaskedDraw_sp : (s.setMaskedDraw x kk r).sp = s.sp := rfl
@[simp] theorem State.setMaskedDraw_stack : (s.setMaskedDraw x kk r).stack = s.stack := rfl
@[simp] theorem State.setMaskedDraw_dt : (s.setMaskedDraw x kk r).dt = s.dt := rfl
@[simp] theorem State.setMaskedDraw_st : (s.setMaskedDraw x kk r).st = s.st := rfl
@[simp] theorem State.setMaskedDraw_mem : (s.setMaskedDraw x kk r).mem = s.mem := rfl
@[simp] theorem State.setMaskedDraw_disp : (s.setMaskedDraw x kk r).disp = s.disp := rfl
@[simp] theorem State.setMaskedDraw_keys : (s.setMaskedDraw x kk r).keys = s.keys := rfl
@[simp] theorem State.setMaskedDraw_kprev : (s.setMaskedDraw x kk r).kprev = s.kprev := rfl
@[simp] theorem State.setMaskedDraw_mode : (s.setMaskedDraw x kk r).mode = s.mode := rfl
@[simp] theorem State.setMaskedDraw_err : (s.setMaskedDraw x kk r).err = s.err := rfl
@[simp] theorem State.setMaskedDraw_loaded : (s.setMaskedDraw x kk r).loaded = s.loaded := rfl
@[simp] theorem State.setMaskedDraw_status : (s.setMaskedDraw x kk r).status = s.status := rfl
@[simp] theorem State.setMaskedDraw_draws : (s.setMaskedDraw x kk r).draws = s.draws := rfl
@[simp] theorem State.setMaskedDraw_params : (s.setMaskedDraw x kk r).params = s.params := rfl
@[simp] theorem State.setMaskedDraw_byteAt (addr : Nat) : (s.setMaskedDraw x kk r).byteAt addr = s.byteAt addr := rfl
@[simp] theorem State.setMaskedDraw_ea (off : Nat) : (s.setMaskedDraw x kk r).ea off = s.ea off := rfl

end

section
variable (s : State)

@[simp] theorem State.nextDraw_v : (s.nextDraw).v = s.v := rfl
@[simp] theorem State.nextDraw_i : (s.nextDraw).i = s.i := rfl
@[simp] theorem State.nextDraw_pc : (s.nextDraw).pc = s.pc := rfl
@[simp] theorem State.nextDraw_sp : (s.nextDraw).sp = s.sp := rfl
@[simp] theorem State.nextDraw_stack : (s.nextDraw).stack = s.stack := rfl
@[simp] theorem State.nextDraw_dt : (s.nextDraw).dt = s.dt := rfl
@[simp] theorem State.nextDraw_st : (s.nextDraw).st = s.st := rfl
@[simp] theorem State.nextDraw_mem : (s.nextDraw).mem = s.mem := rfl
@[simp] theorem State.nextDraw_disp : (s.nextDraw).disp = s.disp := rfl
@[simp] theorem State.nextDraw_keys : (s.nextDraw).keys = s.keys := rfl
@[simp] theorem State.nextDraw_kprev : (s.nextDraw).kprev = s.kprev := rfl
@[simp] theorem State.nextDraw_mode : (s.nextDraw).mode = s.mode := rfl
@[simp] theorem State.nextDraw_err : (s.nextDraw).err = s.err := rfl
@[simp] theorem State.nextDraw_loaded : (s.nextDraw).loaded = s.loaded := rfl
@[simp] theorem State.nextDraw_status : (s.nextDraw).status = s.status := rfl
@[simp] theorem State.nextDraw_draws : (s.nextDraw).draws = s.draws + 1 := rfl
@[simp] theorem State.nextDraw_params : (s.nextDraw).params = s.params := rfl
@[simp] theorem State.nextDraw_readV (r : Nibble) : (s.nextDraw).readV r = s.readV r := rfl
@[simp] theorem State.nextDraw_byteAt (addr : Nat) : (s.nextDraw).byteAt addr = s.byteAt addr := rfl
@[simp] theorem State.nextDraw_ea (off : Nat) : (s.nextDraw).ea off = s.ea off := rfl

end

section
variable (s : State) (g : Drawing)

@[simp] theorem State.applyDrawing_v : (s.applyDrawing g).v = (s.setV vf (flagByte g.hit)).v := rfl
@[simp] theorem State.applyDrawing_i : (s.applyDrawing g).i = s.i := rfl
@[simp] theorem State.applyDrawing_pc : (s.applyDrawing g).pc = s.pc := rfl
@[simp] theorem State.applyDrawing_sp : (s.applyDrawing g).sp = s.sp := rfl
@[simp] theorem State.applyDrawing_stack : (s.applyDrawing g).stack = s.stack := rfl
@[simp] theorem State.applyDrawing_dt : (s.applyDrawing g).dt = s.dt := rfl
@[simp] theorem State.applyDrawing_st : (s.applyDrawing g).st = s.st := rfl
@[simp] theorem State.applyDrawing_mem : (s.applyDrawing g).mem = s.mem := rfl
@[simp] theorem State.applyDrawing_disp : (s.applyDrawing g).disp = g.disp := rfl
@[simp] theorem State.applyDrawing_keys : (s.applyDrawing g).keys = s.keys := rfl
@[simp] theorem State.applyDrawing_kprev : (s.applyDrawing g).kprev = s.kprev := rfl
@[simp] theorem State.applyDrawing_mode : (s.applyDrawing g).mode = s.mode := rfl
@[simp] theorem State.applyDrawing_err : (s.applyDrawing g).err = s.err := rfl
@[simp] theorem State.applyDrawing_loaded : (s.applyDrawing g).loaded = s.loaded := rfl
@[simp] theorem State.applyDrawing_status : (s.applyDrawing g).status = s.status := rfl
@[simp] theorem State.applyDrawing_draws : (s.applyDrawing g).draws = s.draws := rfl
@[simp] theorem State.applyDrawing_params : (s.applyDrawing g).params = s.params := rfl
@[simp] theorem State.applyDrawing_byteAt (addr : Nat) : (s.applyDrawing g).byteAt addr = s.byteAt addr := rfl
@[simp] theorem State.applyDrawing_ea (off : Nat) : (s.applyDrawing g).ea off = s.ea off := rfl

end

section
variable (s : State) (w : Word) (h : s.sp.toNat < 16)

@[simp] theorem State.push_v : (s.push w h).v = s.v := rfl
@[simp] theorem State.push_i : (s.push w h).i = s.i := rfl
@[simp] theorem State.push_pc : (s.push w h).pc = s.pc := rfl
@[simp] theorem State.push_sp : (s.push w h).sp = s.sp + 1 := rfl
@[simp] theorem State.push_stack : (s.push w h).stack = s.stack.set s.sp.toNat w h := rfl
@[simp] theorem State.push_dt : (s.push w h).dt = s.dt := rfl
@[simp] theorem State.push_st : (s.push w h).st = s.st := rfl
@[simp] theorem State.push_mem : (s.push w h).mem = s.mem := rfl
@[simp] theorem State.push_disp : (s.push w h).disp = s.disp := rfl
@[simp] theorem State.push_keys : (s.push w h).keys = s.keys := rfl
@[simp] theorem State.push_kprev : (s.push w h).kprev = s.kprev := rfl
@[simp] theorem State.push_mode : (s.push w h).mode = s.mode := rfl
@[simp] theorem State.push_err : (s.push w h).err = s.err := rfl
@[simp] theorem State.push_loaded : (s.push w h).loaded = s.loaded := rfl
@[simp] theorem State.push_status : (s.push w h).status = s.status := rfl
@[simp] theorem State.push_draws : (s.push w h).draws = s.draws := rfl
@[simp] theorem State.push_params : (s.push w h).params = s.params := rfl
@[simp] theorem State.push_readV (r : Nibble) : (s.push w h).readV r = s.readV r := rfl
@[simp] theorem State.push_byteAt (addr : Nat) : (s.push w h).byteAt addr = s.byteAt addr := rfl
@[simp] theorem State.push_ea (off : Nat) : (s.push w h).ea off = s.ea off := rfl

end

section
variable (s : State) (h : s.sp.toNat - 1 < 16)

@[simp] theorem State.popToPc_v : (s.popToPc h).v = s.v := rfl
@[simp] theorem State.popToPc_i : (s.popToPc h).i = s.i := rfl
@[simp] theorem State.popToPc_pc : (s.popToPc h).pc = s.stack[s.sp.toNat - 1] := rfl
@[simp] theorem State.popToPc_sp : (s.popToPc h).sp = s.sp - 1 := rfl
@[simp] theorem State.popToPc_stack : (s.popToPc h).stack = s.stack := rfl
@[simp] theorem State.popToPc_dt : (s.popToPc h).dt = s.dt := rfl
@[simp] theorem State.popToPc_st : (s.popToPc h).st = s.st := rfl
@[simp] theorem State.popToPc_mem : (s.popToPc h).mem = s.mem := rfl
@[simp] theorem State.popToPc_disp : (s.popToPc h).disp = s.disp := rfl
@[simp] theorem State.popToPc_keys : (s.popToPc h).keys = s.keys := rfl
@[simp] theorem State.popToPc_kprev : (s.popToPc h).kprev = s.kprev := rfl
@[simp] theorem State.popToPc_mode : (s.popToPc h).mode = s.mode := rfl
@[simp] theorem State.popToPc_err : (s.popToPc h).err = s.err := rfl
@[simp] theorem State.popToPc_loaded : (s.popToPc h).loaded = s.loaded := rfl
@[simp] theorem State.popToPc_status : (s.popToPc h).status = s.status := rfl
@[simp] theorem State.popToPc_draws : (s.popToPc h).draws = s.draws := rfl
@[simp] theorem State.popToPc_params : (s.popToPc h).params = s.params := rfl
@[simp] theorem State.popToPc_readV (r : Nibble) : (s.popToPc h).readV r = s.readV r := rfl
@[simp] theorem State.popToPc_byteAt (addr : Nat) : (s.popToPc h).byteAt addr = s.byteAt addr := rfl
@[simp] theorem State.popToPc_ea (off : Nat) : (s.popToPc h).ea off = s.ea off := rfl

end

section
variable (s : State)

@[simp] theorem State.fetchAdvance_v : (s.fetchAdvance).v = s.v := rfl
@[simp] theorem State.fetchAdvance_i : (s.fetchAdvance).i = s.i := rfl
@[simp] theorem State.fetchAdvance_pc : (s.fetchAdvance).pc = s.pc + 2 := rfl
@[simp] theorem State.fetchAdvance_sp : (s.fetchAdvance).sp = s.sp := rfl
@[simp] theorem State.fetchAdvance_stack : (s.fetchAdvance).stack = s.stack := rfl
@[simp] theorem State.fetchAdvance_dt : (s.fetchAdvance).dt = s.dt := rfl
@[simp] theorem State.fetchAdvance_st : (s.fetchAdvance).st = s.st := rfl
@[simp] theorem State.fetchAdvance_mem : (s.fetchAdvance).mem = s.mem := rfl
@[simp] theorem State.fetchAdvance_disp : (s.fetchAdvance).disp = s.disp := rfl
@[simp] theorem State.fetchAdvance_keys : (s.fetchAdvance).keys = s.keys := rfl
@[simp] theorem State.fetchAdvance_kprev : (s.fetchAdvance).kprev = s.kprev := rfl
@[simp] theorem State.fetchAdvance_mode : (s.fetchAdvance).mode = s.mode := rfl
@[simp] theorem State.fetchAdvance_err : (s.fetchAdvance).err = s.err := rfl
@[simp] theorem State.fetchAdvance_loaded : (s.fetchAdvance).loaded = s.loaded := rfl
@[simp] theorem State.fetchAdvance_status : (s.fetchAdvance).status = s.status := rfl
@[simp] theorem State.fetchAdvance_draws : (s.fetchAdvance).draws = s.draws := rfl
@[simp] theorem State.fetchAdvance_params : (s.fetchAdvance).params = s.params := rfl
@[simp] theorem State.fetchAdvance_readV (r : Nibble) : (s.fetchAdvance).readV r = s.readV r := rfl
@[simp] theorem State.fetchAdvance_byteAt (addr : Nat) : (s.fetchAdvance).byteAt addr = s.byteAt addr := rfl
@[simp] theorem State.fetchAdvance_ea (off : Nat) : (s.fetchAdvance).ea off = s.ea off := rfl

end

section
variable (s : State)

@[simp] theorem State.latchKeys_v : (s.latchKeys).v = s.v := rfl
@[simp] theorem State.latchKeys_i : (s.latchKeys).i = s.i := rfl
@[simp] theorem State.latchKeys_pc : (s.latchKeys).pc = s.pc := rfl
@[simp] theorem State.latchKeys_sp : (s.latchKeys).sp = s.sp := rfl
@[simp] theorem State.latchKeys_stack : (s.latchKeys).stack = s.stack := rfl
@[simp] theorem State.latchKeys_dt : (s.latchKeys).dt = s.dt := rfl
@[simp] theorem State.latchKeys_st : (s.latchKeys).st = s.st := rfl
@[simp] theorem State.latchKeys_mem : (s.latchKeys).mem = s.mem := rfl
@[simp] theorem State.latchKeys_disp : (s.latchKeys).disp = s.disp := rfl
@[simp] theorem State.latchKeys_keys : (s.latchKeys).keys = s.keys := rfl
@[simp] theorem State.latchKeys_kprev : (s.latchKeys).kprev = s.keys := rfl
@[simp] theorem State.latchKeys_mode : (s.latchKeys).mode = s.mode := rfl
@[simp] theorem State.latchKeys_err : (s.latchKeys).err = s.err := rfl
@[simp] theorem State.latchKeys_loaded : (s.latchKeys).loaded = s.loaded := rfl
@[simp] theorem State.latchKeys_status : (s.latchKeys).status = s.status := rfl
@[simp] theorem State.latchKeys_draws : (s.latchKeys).draws = s.draws := rfl
@[simp] theorem State.latchKeys_params : (s.latchKeys).params = s.params := rfl
@[simp] theorem State.latchKeys_readV (r : Nibble) : (s.latchKeys).readV r = s.readV r := rfl
@[simp] theorem State.latchKeys_byteAt (addr : Nat) : (s.latchKeys).byteAt addr = s.byteAt addr := rfl
@[simp] theorem State.latchKeys_ea (off : Nat) : (s.latchKeys).ea off = s.ea off := rfl

end

section
variable (s : State)

@[simp] theorem State.clearHalt_v : (s.clearHalt).v = s.v := rfl
@[simp] theorem State.clearHalt_i : (s.clearHalt).i = s.i := rfl
@[simp] theorem State.clearHalt_pc : (s.clearHalt).pc = s.pc := rfl
@[simp] theorem State.clearHalt_sp : (s.clearHalt).sp = s.sp := rfl
@[simp] theorem State.clearHalt_stack : (s.clearHalt).stack = s.stack := rfl
@[simp] theorem State.clearHalt_dt : (s.clearHalt).dt = s.dt := rfl
@[simp] theorem State.clearHalt_st : (s.clearHalt).st = s.st := rfl
@[simp] theorem State.clearHalt_mem : (s.clearHalt).mem = s.mem := rfl
@[simp] theorem State.clearHalt_disp : (s.clearHalt).disp = s.disp := rfl
@[simp] theorem State.clearHalt_keys : (s.clearHalt).keys = s.keys := rfl
@[simp] theorem State.clearHalt_kprev : (s.clearHalt).kprev = s.kprev := rfl
@[simp] theorem State.clearHalt_mode : (s.clearHalt).mode = .running := rfl
@[simp] theorem State.clearHalt_err : (s.clearHalt).err = none := rfl
@[simp] theorem State.clearHalt_loaded : (s.clearHalt).loaded = s.loaded := rfl
@[simp] theorem State.clearHalt_status : (s.clearHalt).status = s.status := rfl
@[simp] theorem State.clearHalt_draws : (s.clearHalt).draws = s.draws := rfl
@[simp] theorem State.clearHalt_params : (s.clearHalt).params = s.params := rfl
@[simp] theorem State.clearHalt_readV (r : Nibble) : (s.clearHalt).readV r = s.readV r := rfl
@[simp] theorem State.clearHalt_byteAt (addr : Nat) : (s.clearHalt).byteAt addr = s.byteAt addr := rfl
@[simp] theorem State.clearHalt_ea (off : Nat) : (s.clearHalt).ea off = s.ea off := rfl

end

section
variable (s : State)

@[simp] theorem State.complete_v : (s.complete).v = s.v := rfl
@[simp] theorem State.complete_i : (s.complete).i = s.i := rfl
@[simp] theorem State.complete_pc : (s.complete).pc = s.pc := rfl
@[simp] theorem State.complete_sp : (s.complete).sp = s.sp := rfl
@[simp] theorem State.complete_stack : (s.complete).stack = s.stack := rfl
@[simp] theorem State.complete_dt : (s.complete).dt = s.dt := rfl
@[simp] theorem State.complete_st : (s.complete).st = s.st := rfl
@[simp] theorem State.complete_mem : (s.complete).mem = s.mem := rfl
@[simp] theorem State.complete_disp : (s.complete).disp = s.disp := rfl
@[simp] theorem State.complete_keys : (s.complete).keys = s.keys := rfl
@[simp] theorem State.complete_kprev : (s.complete).kprev = s.kprev := rfl
@[simp] theorem State.complete_mode : (s.complete).mode = .running := rfl
@[simp] theorem State.complete_err : (s.complete).err = s.err := rfl
@[simp] theorem State.complete_loaded : (s.complete).loaded = s.loaded := rfl
@[simp] theorem State.complete_status : (s.complete).status = some .ok := rfl
@[simp] theorem State.complete_draws : (s.complete).draws = s.draws := rfl
@[simp] theorem State.complete_params : (s.complete).params = s.params := rfl
@[simp] theorem State.complete_readV (r : Nibble) : (s.complete).readV r = s.readV r := rfl
@[simp] theorem State.complete_byteAt (addr : Nat) : (s.complete).byteAt addr = s.byteAt addr := rfl
@[simp] theorem State.complete_ea (off : Nat) : (s.complete).ea off = s.ea off := rfl

end

section
variable (s : State)

@[simp] theorem State.block_v : (s.block).v = s.v := rfl
@[simp] theorem State.block_i : (s.block).i = s.i := rfl
@[simp] theorem State.block_pc : (s.block).pc = s.pc := rfl
@[simp] theorem State.block_sp : (s.block).sp = s.sp := rfl
@[simp] theorem State.block_stack : (s.block).stack = s.stack := rfl
@[simp] theorem State.block_dt : (s.block).dt = s.dt := rfl
@[simp] theorem State.block_st : (s.block).st = s.st := rfl
@[simp] theorem State.block_mem : (s.block).mem = s.mem := rfl
@[simp] theorem State.block_disp : (s.block).disp = s.disp := rfl
@[simp] theorem State.block_keys : (s.block).keys = s.keys := rfl
@[simp] theorem State.block_kprev : (s.block).kprev = s.kprev := rfl
@[simp] theorem State.block_mode : (s.block).mode = .blocked := rfl
@[simp] theorem State.block_err : (s.block).err = s.err := rfl
@[simp] theorem State.block_loaded : (s.block).loaded = s.loaded := rfl
@[simp] theorem State.block_status : (s.block).status = some .blocked := rfl
@[simp] theorem State.block_draws : (s.block).draws = s.draws := rfl
@[simp] theorem State.block_params : (s.block).params = s.params := rfl
@[simp] theorem State.block_readV (r : Nibble) : (s.block).readV r = s.readV r := rfl
@[simp] theorem State.block_byteAt (addr : Nat) : (s.block).byteAt addr = s.byteAt addr := rfl
@[simp] theorem State.block_ea (off : Nat) : (s.block).ea off = s.ea off := rfl

end

section
variable (s : State) (c : Bool)

@[simp] theorem State.skipIf_v : (s.skipIf c).v = s.v := by cases c <;> rfl
@[simp] theorem State.skipIf_i : (s.skipIf c).i = s.i := by cases c <;> rfl
@[simp] theorem State.skipIf_pc : (s.skipIf c).pc = if c then s.pc + 2 else s.pc := by cases c <;> rfl
@[simp] theorem State.skipIf_sp : (s.skipIf c).sp = s.sp := by cases c <;> rfl
@[simp] theorem State.skipIf_stack : (s.skipIf c).stack = s.stack := by cases c <;> rfl
@[simp] theorem State.skipIf_dt : (s.skipIf c).dt = s.dt := by cases c <;> rfl
@[simp] theorem State.skipIf_st : (s.skipIf c).st = s.st := by cases c <;> rfl
@[simp] theorem State.skipIf_mem : (s.skipIf c).mem = s.mem := by cases c <;> rfl
@[simp] theorem State.skipIf_disp : (s.skipIf c).disp = s.disp := by cases c <;> rfl
@[simp] theorem State.skipIf_keys : (s.skipIf c).keys = s.keys := by cases c <;> rfl
@[simp] theorem State.skipIf_kprev : (s.skipIf c).kprev = s.kprev := by cases c <;> rfl
@[simp] theorem State.skipIf_mode : (s.skipIf c).mode = s.mode := by cases c <;> rfl
@[simp] theorem State.skipIf_err : (s.skipIf c).err = s.err := by cases c <;> rfl
@[simp] theorem State.skipIf_loaded : (s.skipIf c).loaded = s.loaded := by cases c <;> rfl
@[simp] theorem State.skipIf_status : (s.skipIf c).status = s.status := by cases c <;> rfl
@[simp] theorem State.skipIf_draws : (s.skipIf c).draws = s.draws := by cases c <;> rfl
@[simp] theorem State.skipIf_params : (s.skipIf c).params = s.params := by cases c <;> rfl
@[simp] theorem State.skipIf_readV (r : Nibble) : (s.skipIf c).readV r = s.readV r := by simp only [State.readV, State.skipIf_v]
@[simp] theorem State.skipIf_byteAt (addr : Nat) : (s.skipIf c).byteAt addr = s.byteAt addr := by simp only [State.byteAt, State.skipIf_mem, State.skipIf_params]
@[simp] theorem State.skipIf_ea (off : Nat) : (s.skipIf c).ea off = s.ea off := by simp only [State.ea, State.skipIf_i]

end

section
variable (s : State) (e : CoreError)

@[simp] theorem State.raise_v : (s.raise e).v = s.v := by unfold State.raise; split <;> rfl
@[simp] theorem State.raise_i : (s.raise e).i = s.i := by unfold State.raise; split <;> rfl
@[simp] theorem State.raise_pc : (s.raise e).pc = s.pc := by unfold State.raise; split <;> rfl
@[simp] theorem State.raise_sp : (s.raise e).sp = s.sp := by unfold State.raise; split <;> rfl
@[simp] theorem State.raise_stack : (s.raise e).stack = s.stack := by unfold State.raise; split <;> rfl
@[simp] theorem State.raise_dt : (s.raise e).dt = s.dt := by unfold State.raise; split <;> rfl
@[simp] theorem State.raise_st : (s.raise e).st = s.st := by unfold State.raise; split <;> rfl
@[simp] theorem State.raise_mem : (s.raise e).mem = s.mem := by unfold State.raise; split <;> rfl
@[simp] theorem State.raise_disp : (s.raise e).disp = s.disp := by unfold State.raise; split <;> rfl
@[simp] theorem State.raise_keys : (s.raise e).keys = s.keys := by unfold State.raise; split <;> rfl
@[simp] theorem State.raise_kprev : (s.raise e).kprev = s.kprev := by unfold State.raise; split <;> rfl
@[simp] theorem State.raise_mode : (s.raise e).mode = if isFatal s.params e then .halted else .running := by unfold State.raise; split <;> rfl
@[simp] theorem State.raise_err : (s.raise e).err = if isFatal s.params e then some e else s.err := by unfold State.raise; split <;> rfl
@[simp] theorem State.raise_loaded : (s.raise e).loaded = s.loaded := by unfold State.raise; split <;> rfl
@[simp] theorem State.raise_status : (s.raise e).status = some (.error e) := by unfold State.raise; split <;> rfl
@[simp] theorem State.raise_draws : (s.raise e).draws = s.draws := by unfold State.raise; split <;> rfl
@[simp] theorem State.raise_params : (s.raise e).params = s.params := by unfold State.raise; split <;> rfl
@[simp] theorem State.raise_readV (r : Nibble) : (s.raise e).readV r = s.readV r := by simp only [State.readV, State.raise_v]
@[simp] theorem State.raise_byteAt (addr : Nat) : (s.raise e).byteAt addr = s.byteAt addr := by simp only [State.byteAt, State.raise_mem, State.raise_params]
@[simp] theorem State.raise_ea (off : Nat) : (s.raise e).ea off = s.ea off := by simp only [State.ea, State.raise_i]

end

section
variable (s : State)

@[simp] theorem State.reportHalted_v : (s.reportHalted).v = s.v := by unfold State.reportHalted; split <;> rfl
@[simp] theorem State.reportHalted_i : (s.reportHalted).i = s.i := by unfold State.reportHalted; split <;> rfl
@[simp] theorem State.reportHalted_pc : (s.reportHalted).pc = s.pc := by unfold State.reportHalted; split <;> rfl
@[simp] theorem State.reportHalted_sp : (s.reportHalted).sp = s.sp := by unfold State.reportHalted; split <;> rfl
@[simp] theorem State.reportHalted_stack : (s.reportHalted).stack = s.stack := by unfold State.reportHalted; split <;> rfl
@[simp] theorem State.reportHalted_dt : (s.reportHalted).dt = s.dt := by unfold State.reportHalted; split <;> rfl
@[simp] theorem State.reportHalted_st : (s.reportHalted).st = s.st := by unfold State.reportHalted; split <;> rfl
@[simp] theorem State.reportHalted_mem : (s.reportHalted).mem = s.mem := by unfold State.reportHalted; split <;> rfl
@[simp] theorem State.reportHalted_disp : (s.reportHalted).disp = s.disp := by unfold State.reportHalted; split <;> rfl
@[simp] theorem State.reportHalted_keys : (s.reportHalted).keys = s.keys := by unfold State.reportHalted; split <;> rfl
@[simp] theorem State.reportHalted_kprev : (s.reportHalted).kprev = s.kprev := by unfold State.reportHalted; split <;> rfl
@[simp] theorem State.reportHalted_mode : (s.reportHalted).mode = s.mode := by unfold State.reportHalted; split <;> rfl
@[simp] theorem State.reportHalted_err : (s.reportHalted).err = s.err := by unfold State.reportHalted; split <;> rfl
@[simp] theorem State.reportHalted_loaded : (s.reportHalted).loaded = s.loaded := by unfold State.reportHalted; split <;> rfl
@[simp] theorem State.reportHalted_draws : (s.reportHalted).draws = s.draws := by unfold State.reportHalted; split <;> rfl
@[simp] theorem State.reportHalted_params : (s.reportHalted).params = s.params := by unfold State.reportHalted; split <;> rfl
@[simp] theorem State.reportHalted_readV (r : Nibble) : (s.reportHalted).readV r = s.readV r := by simp only [State.readV, State.reportHalted_v]
@[simp] theorem State.reportHalted_byteAt (addr : Nat) : (s.reportHalted).byteAt addr = s.byteAt addr := by simp only [State.byteAt, State.reportHalted_mem, State.reportHalted_params]
@[simp] theorem State.reportHalted_ea (off : Nat) : (s.reportHalted).ea off = s.ea off := by simp only [State.ea, State.reportHalted_i]

end

section
variable (s : State) (k : Nat) (bs : List Byte)

@[simp] theorem State.setRegsFrom_i : (s.setRegsFrom k bs).i = s.i := by induction bs generalizing s k with | nil => rfl | cons b bs ih => exact ih _ _
@[simp] theorem State.setRegsFrom_pc : (s.setRegsFrom k bs).pc = s.pc := by induction bs generalizing s k with | nil => rfl | cons b bs ih => exact ih _ _
@[simp] theorem State.setRegsFrom_sp : (s.setRegsFrom k bs).sp = s.sp := by induction bs generalizing s k with | nil => rfl | cons b bs ih => exact ih _ _
@[simp] theorem State.setRegsFrom_stack : (s.setRegsFrom k bs).stack = s.stack := by induction bs generalizing s k with | nil => rfl | cons b bs ih => exact ih _ _
@[simp] theorem State.setRegsFrom_dt : (s.setRegsFrom k bs).dt = s.dt := by induction bs generalizing s k with | nil => rfl | cons b bs ih => exact ih _ _
@[simp] theorem State.setRegsFrom_st : (s.setRegsFrom k bs).st = s.st := by induction bs generalizing s k with | nil => rfl | cons b bs ih => exact ih _ _
@[simp] theorem State.setRegsFrom_mem : (s.setRegsFrom k bs).mem = s.mem := by induction bs generalizing s k with | nil => rfl | cons b bs ih => exact ih _ _
@[simp] theorem State.setRegsFrom_disp : (s.setRegsFrom k bs).disp = s.disp := by induction bs generalizing s k with | nil => rfl | cons b bs ih => exact ih _ _
@[simp] theorem State.setRegsFrom_keys : (s.setRegsFrom k bs).keys = s.keys := by induction bs generalizing s k with | nil => rfl | cons b bs ih => exact ih _ _
@[simp] theorem State.setRegsFrom_kprev : (s.setRegsFrom k bs).kprev = s.kprev := by induction bs generalizing s k with | nil => rfl | cons b bs ih => exact ih _ _
@[simp] theorem State.setRegsFrom_mode : (s.setRegsFrom k bs).mode = s.mode := by induction bs generalizing s k with | nil => rfl | cons b bs ih => exact ih _ _
@[simp] theorem State.setRegsFrom_err : (s.setRegsFrom k bs).err = s.err := by induction bs generalizing s k with | nil => rfl | cons b bs ih => exact ih _ _
@[simp] theorem State.setRegsFrom_loaded : (s.setRegsFrom k bs).loaded = s.loaded := by induction bs generalizing s k with | nil => rfl | cons b bs ih => exact ih _ _
@[simp] theorem State.setRegsFrom_status : (s.setRegsFrom k bs).status = s.status := by induction bs generalizing s k with | nil => rfl | cons b bs ih => exact ih _ _
@[simp] theorem State.setRegsFrom_draws : (s.setRegsFrom k bs).draws = s.draws := by induction bs generalizing s k with | nil => rfl | cons b bs ih => exact ih _ _
@[simp] theorem State.setRegsFrom_params : (s.setRegsFrom k bs).params = s.params := by induction bs generalizing s k with | nil => rfl | cons b bs ih => exact ih _ _
@[simp] theorem State.setRegsFrom_byteAt (addr : Nat) : (s.setRegsFrom k bs).byteAt addr = s.byteAt addr := by simp only [State.byteAt, State.setRegsFrom_mem, State.setRegsFrom_params]
@[simp] theorem State.setRegsFrom_ea (off : Nat) : (s.setRegsFrom k bs).ea off = s.ea off := by simp only [State.ea, State.setRegsFrom_i]

end

section
variable (s : State) (base : Nat) (bs : List Byte)

@[simp] theorem State.storeBytes_v : (s.storeBytes base bs).v = s.v := by induction bs generalizing s base with | nil => rfl | cons b bs ih => exact ih _ _
@[simp] theorem State.storeBytes_i : (s.storeBytes base bs).i = s.i := by induction bs generalizing s base with | nil => rfl | cons b bs ih => exact ih _ _
@[simp] theorem State.storeBytes_pc : (s.storeBytes base bs).pc = s.pc := by induction bs generalizing s base with | nil => rfl | cons b bs ih => exact ih _ _
@[simp] theorem State.storeBytes_sp : (s.storeBytes base bs).sp = s.sp := by induction bs generalizing s base with | nil => rfl | cons b bs ih => exact ih _ _
@[simp] theorem State.storeBytes_stack : (s.storeBytes base bs).stack = s.stack := by induction bs generalizing s base with | nil => rfl | cons b bs ih => exact ih _ _
@[simp] theorem State.storeBytes_dt : (s.storeBytes base bs).dt = s.dt := by induction bs generalizing s base with | nil => rfl | cons b bs ih => exact ih _ _
@[simp] theorem State.storeBytes_st : (s.storeBytes base bs).st = s.st := by induction bs generalizing s base with | nil => rfl | cons b bs ih => exact ih _ _
@[simp] theorem State.storeBytes_disp : (s.storeBytes base bs).disp = s.disp := by induction bs generalizing s base with | nil => rfl | cons b bs ih => exact ih _ _
@[simp] theorem State.storeBytes_keys : (s.storeBytes base bs).keys = s.keys := by induction bs generalizing s base with | nil => rfl | cons b bs ih => exact ih _ _
@[simp] theorem State.storeBytes_kprev : (s.storeBytes base bs).kprev = s.kprev := by induction bs generalizing s base with | nil => rfl | cons b bs ih => exact ih _ _
@[simp] theorem State.storeBytes_mode : (s.storeBytes base bs).mode = s.mode := by induction bs generalizing s base with | nil => rfl | cons b bs ih => exact ih _ _
@[simp] theorem State.storeBytes_err : (s.storeBytes base bs).err = s.err := by induction bs generalizing s base with | nil => rfl | cons b bs ih => exact ih _ _
@[simp] theorem State.storeBytes_loaded : (s.storeBytes base bs).loaded = s.loaded := by induction bs generalizing s base with | nil => rfl | cons b bs ih => exact ih _ _
@[simp] theorem State.storeBytes_status : (s.storeBytes base bs).status = s.status := by induction bs generalizing s base with | nil => rfl | cons b bs ih => exact ih _ _
@[simp] theorem State.storeBytes_draws : (s.storeBytes base bs).draws = s.draws := by induction bs generalizing s base with | nil => rfl | cons b bs ih => exact ih _ _
@[simp] theorem State.storeBytes_params : (s.storeBytes base bs).params = s.params := by induction bs generalizing s base with | nil => rfl | cons b bs ih => exact ih _ _
@[simp] theorem State.storeBytes_readV (r : Nibble) : (s.storeBytes base bs).readV r = s.readV r := by simp only [State.readV, State.storeBytes_v]
@[simp] theorem State.storeBytes_ea (off : Nat) : (s.storeBytes base bs).ea off = s.ea off := by simp only [State.ea, State.storeBytes_i]

end

/-- The updates that touch no register file leave the general registers; this one writes one of them. -/
@[simp] theorem State.setV_readV (s : State) (x r : Nibble) (b : Byte) :
    (s.setV x b).readV r = if r = x then b else s.readV r := by
  by_cases h : r = x
  · subst h; simp [State.readV, State.setV]
  · have : x.toNat ≠ r.toNat := fun e => h (BitVec.eq_of_toNat_eq e.symm)
    simp [State.readV, State.setV, h, this]

/-- VF is the flag unless `x` is 15, where the result, written second, wins (42_alu.md R171). -/
@[simp] theorem State.setFlagThenV_readV (s : State) (x r : Nibble) (f b : Byte) :
    (s.setFlagThenV x f b).readV r = if r = x then b else if r = vf then f else s.readV r := by
  unfold State.setFlagThenV; simp

/-- Registers `k`, `k + 1`, ... take the bytes of the list, the others stay (43_index_memory.md R205). -/
theorem State.setRegsFrom_readV (s : State) (k : Nat) (bs : List Byte) (r : Nibble) (h : k + bs.length ≤ 16) :
    (s.setRegsFrom k bs).readV r =
      if r.toNat < k then s.readV r else (bs[r.toNat - k]?).getD (s.readV r) := by
  induction bs generalizing s k with
  | nil => simp [State.setRegsFrom]
  | cons b bs ih =>
    rw [List.length_cons] at h
    rw [State.setRegsFrom, ih _ _ (by omega), State.setV_readV]
    have hk : r = BitVec.ofNat 4 k ↔ r.toNat = k := by
      constructor
      · rintro rfl; simp; omega
      · intro e; apply BitVec.eq_of_toNat_eq; simp; omega
    rcases Nat.lt_trichotomy r.toNat k with h1 | h1 | h1
    · rw [if_pos (by omega), if_neg (by rw [hk]; omega), if_pos h1]
    · rw [if_pos (by omega), if_pos (hk.2 h1), if_neg (by omega)]; simp [h1]
    · obtain ⟨j, hj⟩ : ∃ j, r.toNat - k = j + 1 := ⟨r.toNat - k - 1, by omega⟩
      rw [if_neg (by omega), if_neg (by rw [hk]; omega), if_neg (by omega), hj,
        show r.toNat - (k + 1) = j by omega]
      simp

@[simp] theorem State.setMaskedDraw_readV (s : State) (x r : Nibble) (kk b : Byte) :
    (s.setMaskedDraw x kk b).readV r = if r = x then b &&& kk else s.readV r := State.setV_readV s x r _

@[simp] theorem State.applyDrawing_readV (s : State) (g : Drawing) (r : Nibble) :
    (s.applyDrawing g).readV r = if r = vf then flagByte g.hit else s.readV r :=
  State.setV_readV (s.setDisp g.disp) vf r _

end Sys2Proof.Machine
end

