-- ==== Sys2Proof/Laws/Memory.lean ====
section
/-! SUPPORT. The laws of memory: read after write (20_memory.md R74), stores of several bytes, and that every
memory operation keeps the canonical form. -/

namespace Sys2Proof.Machine

/-! ### One byte -/

theorem Memory.read_erase (p : Params) (m : Memory) (a c : Nat) :
    Memory.read p (Memory.erase m a) c = if c = a then unlistedByte p c else Memory.read p m c := by
  induction m with
  | nil => simp [Memory.erase, Memory.read]
  | cons x m ih =>
    obtain ⟨k, b⟩ := x
    simp only [Memory.erase] at ih
    by_cases hk : k = a
    · subst hk
      by_cases hc : c = k
      · subst hc; simpa [Memory.erase] using ih
      · have hc' : k ≠ c := fun e => hc e.symm
        simpa [Memory.erase, Memory.read, hc, hc'] using ih
    · by_cases hc : k = c
      · subst hc; simp [Memory.erase, Memory.read, hk]
      · simpa [Memory.erase, Memory.read, hk, hc] using ih

theorem Memory.read_insert (p : Params) (m : Memory) (a c : Nat) (b : Byte) (h : ∀ x ∈ m, x.1 ≠ a) :
    Memory.read p (Memory.insert a b m) c = if c = a then b else Memory.read p m c := by
  induction m with
  | nil => simp [Memory.insert, Memory.read, eq_comm]
  | cons x m ih =>
    have hx : x.1 ≠ a := h x (by simp)
    have ih := ih (fun y hy => h y (by simp [hy]))
    unfold Memory.insert
    by_cases hlt : x.1 < a
    · simp only [if_pos hlt, Memory.read, ih]
      by_cases hc : c = a
      · subst hc; simp [hx]
      · simp [hc]
    · simp only [if_neg hlt, Memory.read, eq_comm]

/-- A read returns the latest write to the address, and a write changes exactly one byte (20_memory.md R60, R74). -/
@[simp] theorem Memory.read_write (p : Params) (m : Memory) (a c : Nat) (b : Byte) :
    Memory.read p (Memory.write p m a b) c = if c = a then b else Memory.read p m c := by
  unfold Memory.write
  split
  · next h => rw [Memory.read_erase]; split <;> simp_all
  · have he : ∀ x ∈ Memory.erase m a, x.1 ≠ a := by simp [Memory.erase]
    rw [Memory.read_insert p _ a c b he, Memory.read_erase]
    split <;> rfl

@[simp] theorem State.setByte_byteAt (s : State) (a c : Nat) (b : Byte) :
    (s.setByte a b).byteAt c = if c = a then b else s.byteAt c :=
  Memory.read_write s.params s.mem a c b

/-! ### Several bytes -/

/-- What one byte reads as after a store of several (20_memory.md R63). -/
theorem State.storeBytes_byteAt (s : State) (base c : Nat) (bs : List Byte) :
    (s.storeBytes base bs).byteAt c =
      if c < base then s.byteAt c else (bs[c - base]?).getD (s.byteAt c) := by
  induction bs generalizing s base with
  | nil => simp [State.storeBytes]
  | cons b bs ih =>
    rw [State.storeBytes, ih, State.setByte_byteAt]
    rcases Nat.lt_trichotomy c base with h | h | h
    · rw [if_pos (by omega), if_neg (by omega), if_pos h]
    · subst h; simp
    · obtain ⟨j, hj⟩ : ∃ j, c - base = j + 1 := ⟨c - base - 1, by omega⟩
      rw [if_neg (by omega), if_neg (by omega), if_neg (by omega), hj, show c - (base + 1) = j by omega]
      simp

/-- Inside the stored range the byte is the stored one. -/
theorem State.storeBytes_byteAt_inside (s : State) (base k : Nat) (bs : List Byte) (h : k < bs.length) :
    (s.storeBytes base bs).byteAt (base + k) = bs[k] := by
  rw [State.storeBytes_byteAt, if_neg (by omega), Nat.add_sub_cancel_left, List.getElem?_eq_getElem h]; rfl

/-- Outside the stored range every byte reads as before. -/
theorem State.storeBytes_byteAt_outside (s : State) (base c : Nat) (bs : List Byte)
    (h : ∀ k, k < bs.length → c ≠ base + k) : (s.storeBytes base bs).byteAt c = s.byteAt c := by
  rw [State.storeBytes_byteAt]
  split
  · rfl
  · have : bs.length ≤ c - base := by
      by_contra hlt
      exact h (c - base) (by omega) (by omega)
    rw [List.getElem?_eq_none this]; rfl

@[simp] theorem State.loadBytes_length (s : State) (base len : Nat) : (s.loadBytes base len).length = len := by
  simp [State.loadBytes]

theorem State.loadBytes_getElem? (s : State) (base len k : Nat) :
    (s.loadBytes base len)[k]? = if k < len then some (s.byteAt (base + k)) else none := by
  by_cases h : k < len
  · simp [State.loadBytes, h]
  · simp [State.loadBytes, h]

@[simp] theorem State.firstRegs_length (s : State) (n : Nat) : (s.firstRegs n).length = min n 16 := by
  simp [State.firstRegs]

/-- The `k`-th byte of the first `n` registers is register `k`. -/
theorem State.firstRegs_getElem? (s : State) (n : Nat) (r : Nibble) (h : r.toNat < n) :
    (s.firstRegs n)[r.toNat]? = some (s.readV r) := by
  have := r.isLt
  simp [State.firstRegs, State.readV, h]

/-! ### The canonical form -/

theorem Memory.rising_tail {lo : Option Nat} {c : Host.Cell} {m : Memory}
    (h : Memory.rising lo (c :: m) = true) : Memory.rising (some c.1) m = true := by
  cases lo <;> simp_all [Memory.rising]

/-- Rising from above `lo` means rising from above any lower bound, or none. -/
theorem Memory.rising_weaken {lo : Nat} {lo' : Option Nat} {m : Memory} (h : Memory.rising (some lo) m = true)
    (hlo : ∀ l, lo' = some l → l ≤ lo) : Memory.rising lo' m = true := by
  cases m with
  | nil => cases lo' <;> rfl
  | cons c m =>
    simp only [Memory.rising, Bool.and_eq_true, decide_eq_true_eq] at h
    cases lo' with
    | none => simpa [Memory.rising] using h.2
    | some l =>
      have := hlo l rfl
      simp only [Memory.rising, Bool.and_eq_true, decide_eq_true_eq]
      exact ⟨by omega, h.2⟩

theorem Memory.rising_filter {lo : Option Nat} {m : Memory} (p : Host.Cell → Bool)
    (h : Memory.rising lo m = true) : Memory.rising lo (m.filter p) = true := by
  induction m generalizing lo with
  | nil => cases lo <;> rfl
  | cons c m ih =>
    have ht := ih (Memory.rising_tail h)
    by_cases hp : p c = true
    · rw [List.filter_cons_of_pos hp]
      cases lo with
      | none => simpa [Memory.rising] using ht
      | some l => simp_all [Memory.rising]
    · rw [List.filter_cons_of_neg hp]
      refine Memory.rising_weaken ht ?_
      rintro l rfl
      simp only [Memory.rising, Bool.and_eq_true, decide_eq_true_eq] at h
      omega

theorem Memory.rising_insert {lo : Option Nat} {m : Memory} (a : Nat) (b : Byte) (hne : ∀ c ∈ m, c.1 ≠ a)
    (hlo : ∀ l, lo = some l → l < a) (h : Memory.rising lo m = true) :
    Memory.rising lo (Memory.insert a b m) = true := by
  induction m generalizing lo with
  | nil => cases lo <;> simp_all [Memory.insert, Memory.rising]
  | cons c m ih =>
    have hc : c.1 ≠ a := hne c (by simp)
    unfold Memory.insert
    split
    · next hlt =>
      have ht := ih (lo := some c.1) (fun d hd => hne d (by simp [hd])) (by rintro l ⟨⟩; exact hlt)
        (Memory.rising_tail h)
      cases lo <;> simp_all [Memory.rising]
    · next hlt =>
      have ht := Memory.rising_tail h
      have : a < c.1 := by omega
      cases lo with
      | none => simp [Memory.rising, this, ht]
      | some l => simp [Memory.rising, this, ht, hlo l rfl]

theorem Memory.mem_insert {a : Nat} {b : Byte} {m : Memory} {c : Host.Cell}
    (h : c ∈ Memory.insert a b m) : c = (a, b) ∨ c ∈ m := by
  induction m with
  | nil => simpa [Memory.insert] using h
  | cons x m ih =>
    unfold Memory.insert at h
    split at h
    · rcases List.mem_cons.1 h with h | h
      · exact .inr (by simp [h])
      · exact (ih h).imp id (fun h => by simp [h])
    · simpa using h

/-- A write inside memory keeps the canonical form. -/
theorem Memory.write_wf (p : Params) (m : Memory) (a : Nat) (b : Byte) (ha : a < memSize)
    (h : Memory.wf p m = true) : Memory.wf p (Memory.write p m a b) = true := by
  simp only [Memory.wf, Bool.and_eq_true, List.all_eq_true] at h ⊢
  obtain ⟨hr, hall⟩ := h
  have hne : ∀ c ∈ Memory.erase m a, c.1 ≠ a := by simp [Memory.erase]
  have hsub : ∀ c ∈ Memory.erase m a, c ∈ m := fun c hc => (List.mem_filter.1 hc).1
  unfold Memory.write
  split
  · exact ⟨Memory.rising_filter _ hr, fun c hc => hall c (hsub c hc)⟩
  · next hb =>
    refine ⟨Memory.rising_insert a b hne (by simp) (Memory.rising_filter _ hr), fun c hc => ?_⟩
    rcases Memory.mem_insert hc with rfl | hc
    · simp [ha, hb]
    · exact hall c (hsub c hc)

/-- A store whose range lies inside memory keeps the canonical form. -/
theorem State.storeBytes_wf (s : State) (base : Nat) (bs : List Byte) (hb : base + bs.length ≤ memSize)
    (h : Memory.wf s.params s.mem = true) : Memory.wf s.params (s.storeBytes base bs).mem = true := by
  induction bs generalizing s base with
  | nil => exact h
  | cons b bs ih =>
    rw [List.length_cons] at hb
    exact ih (s.setByte base b) (base + 1) (by omega) (Memory.write_wf _ _ _ _ (by omega) h)

/-- Memory after reset lists nothing, which is canonical. -/
theorem Memory.wf_nil (p : Params) : Memory.wf p [] = true := rfl

end Sys2Proof.Machine
end

