-- ==== Sys2Proof/Laws/Ops.lean ====
section
/-! SUPPORT. One lemma for each shared operation that says once what it can do: the bounds check, a checked
store, taking an exception, the lowest new key, and the cases of a step. -/

namespace Sys2Proof.Machine

/-! ### The bounds check -/

theorem rangeFault_eq_none_iff (base len : Nat) : rangeFault base len = none ↔ len = 0 ∨ base + len ≤ 4096 := by
  unfold rangeFault memSize; split <;> simp_all

theorem rangeFault_eq_some_iff (base len a : Nat) :
    rangeFault base len = some a ↔ (len ≠ 0 ∧ 4096 < base + len) ∧ a = max base 4096 := by
  unfold rangeFault memSize
  split
  · simp; omega
  · simp [eq_comm]; omega

/-- The fetch faults exactly when PC is 0xFFF or more, at 4096 for PC = 0xFFF and at PC above it (20_memory.md R62). -/
theorem fetchFault_eq_none_iff (s : State) : s.fetchFault = none ↔ s.pc.toNat ≤ 0xFFE := by
  rw [State.fetchFault, rangeFault_eq_none_iff]; omega

/-! ### Unchanged pieces -/

/-- What changed at most in two moves one after the other. -/
theorem unchangedExcept.trans {w w' : Set Piece} {s t u : State} (h : unchangedExcept w s t)
    (h' : unchangedExcept w' t u) : unchangedExcept (w ∪ w') s u := by
  intro p hp
  have h1 := h p (fun e => hp (Or.inl e))
  have h2 := h' p (fun e => hp (Or.inr e))
  cases p <;> exact Eq.trans h2 h1

theorem unchangedExcept.mono {w w' : Set Piece} {s t : State} (h : unchangedExcept w s t) (hw : w ⊆ w') :
    unchangedExcept w' s t := fun p hp => h p (fun e => hp (hw e))

/-- Completing changes MODE and the status only. -/
theorem complete_unchanged (s : State) : unchangedExcept {.mode, .status} s s.complete := by
  intro p hp; cases p <;> first | rfl | simp at hp

/-- An update that changes at most `w`, then completed, ends OK with at most `w` changed. -/
theorem endsOk_complete {w : Set Piece} {s t : State} (h : unchangedExcept w s t) : endsOk w s t.complete :=
  ⟨rfl, rfl, h.trans (complete_unchanged t)⟩

/-! ### Taking an exception -/

/-- Whether an exception is fatal depends on UNKNOWN_POLICY for DecodeError only (60_exceptions.md R252, R253). -/
theorem isFatal_eq_false_iff (p : Params) (e : CoreError) :
    isFatal p e = false ↔ p.unknownPolicy = .nop ∧ ∃ raw, e = .decodeError raw := by
  cases e with
  | decodeError raw => cases h : p.unknownPolicy <;> simp [isFatal, h]
  | stackError k => simp [isFatal]
  | memoryFault a => simp [isFatal]

/-- A fatal exception halts the machine, is kept in ERR, and changes nothing else (60_exceptions.md R259, R261). -/
theorem raise_takesFatal (s : State) (e : CoreError) (h : isFatal s.params e = true) : takesFatal e s (s.raise e) := by
  refine ⟨by simp [h], by simp [h], by simp, fun p hp => ?_⟩
  cases p <;> first | (exfalso; simp at hp; done) | simp [sameAt]

/-- A DecodeError under UNKNOWN_POLICY = NOP leaves the machine running and ERR as it was (60_exceptions.md R251). -/
theorem raise_nonfatal (s : State) (e : CoreError) (h : isFatal s.params e = false) :
    s.raise e = { s with mode := .running, status := some (.error e) } := by
  simp [State.raise, h]

/-! ### A checked store -/

/-- Inside memory a checked store writes the bytes and completes; else it takes MemoryFault(max(base, 4096)) and
writes nothing (20_memory.md R67). -/
theorem storeChecked_cases (s : State) (base : Nat) (bs : List Byte) :
    ((bs.length = 0 ∨ base + bs.length ≤ 4096) ∧ s.storeChecked base bs = (s.storeBytes base bs).complete) ∨
    ((bs.length ≠ 0 ∧ 4096 < base + bs.length) ∧ s.storeChecked base bs = s.raise (.memoryFault (max base 4096))) := by
  unfold State.storeChecked
  cases h : rangeFault base bs.length with
  | none => exact .inl ⟨(rangeFault_eq_none_iff _ _).1 h, rfl⟩
  | some a =>
    obtain ⟨h1, rfl⟩ := (rangeFault_eq_some_iff _ _ _).1 h
    exact .inr ⟨h1, rfl⟩

/-- A store changes the bytes of its range only (20_memory.md R60). -/
theorem storeBytes_unchanged (s : State) (base : Nat) (bs : List Byte) :
    unchangedExcept {p | ∃ k, k < bs.length ∧ p = .mem (base + k)} s (s.storeBytes base bs) := by
  intro p hp
  cases p with
  | mem c => exact State.storeBytes_byteAt_outside s base c bs (fun k hk e => hp ⟨k, hk, by rw [e]⟩)
  | _ => simp [sameAt]

/-! ### Keys -/

/-- The lowest set bit is set, and every lower one is clear (45_keypad_timers.md R232). -/
theorem lowestSet_eq_some_iff (w : BitVec 16) (k : Nat) :
    lowestSet w = some k ↔ k < 16 ∧ w.getLsbD k = true ∧ ∀ j, j < k → w.getLsbD j = false := by
  unfold lowestSet
  rw [List.find?_range_eq_some]
  simp only [List.mem_range, Bool.not_eq_true']
  tauto

theorem lowestSet_eq_none_iff (w : BitVec 16) : lowestSet w = none ↔ ∀ k, k < 16 → w.getLsbD k = false := by
  unfold lowestSet; simp

/-! ### The cases of a step -/

/-- A machine that fetches runs the fetched word (40_step_cycle.md R131). -/
theorem step_of_fetches {s : State} (h : fetches s) : step s = runWord s.fetchWord s := by
  obtain ⟨hl, hm, hpc⟩ := h
  unfold step
  rw [if_neg (by simp [hl]), if_neg hm, (fetchFault_eq_none_iff s).2 hpc]

/-- What a fetched word that executes to `u` makes of the step: the keys are latched (40_step_cycle.md R138). -/
theorem step_of_exec {s u : State} (h : fetches s) (hu : exec (decode s.fetchWord) s.fetchAdvance = .next u) :
    step s = .next u.latchKeys := by
  rw [step_of_fetches h, runWord, hu]

/-- Everything a step that answers a next state can have done: reported the error of a halted machine, taken the
fetch's MemoryFault, or executed the fetched instruction; the keys are latched in the last two (40_step_cycle.md
R131). -/
theorem step_cases {s t : State} (h : step s = .next t) :
    s.loaded = true ∧
    ((s.mode = .halted ∧ t = s.reportHalted) ∨
     (s.mode ≠ .halted ∧ 0xFFE < s.pc.toNat ∧
        t = (s.raise (.memoryFault (max s.pc.toNat 4096))).latchKeys) ∨
     (s.mode ≠ .halted ∧ s.pc.toNat ≤ 0xFFE ∧
        ∃ u, exec (decode s.fetchWord) s.fetchAdvance = .next u ∧ t = u.latchKeys)) := by
  unfold step at h
  split at h
  · cases h
  · next hl =>
    refine ⟨by simpa using hl, ?_⟩
    split at h
    · next hm => cases h; exact .inl ⟨hm, rfl⟩
    · next hm =>
      split at h
      · next a ha =>
        cases h
        obtain ⟨h1, rfl⟩ := (rangeFault_eq_some_iff _ _ _).1 ha
        exact .inr (.inl ⟨hm, by omega, rfl⟩)
      · next hf =>
        refine .inr (.inr ⟨hm, (fetchFault_eq_none_iff s).1 hf, ?_⟩)
        unfold runWord at h
        cases he : exec (decode s.fetchWord) s.fetchAdvance with
        | next u => rw [he] at h; cases h; exact ⟨u, rfl, rfl⟩
        | fault f => rw [he] at h; cases h
        | refused r => rw [he] at h; cases h

end Sys2Proof.Machine
end

