-- ==== Sys2Proof/Laws/Display.lean ====
section
/-! SUPPORT. What the drawing operations do to a cell and to the collision flag. "No cell is touched twice in one
DRW" (44_display.md R222 d) is the one idea: within 8 columns and 32 rows the wrapped coordinates are distinct. -/

namespace Sys2Proof.Machine

@[simp] theorem pixel_flipPixel (d : Display) (row r : Fin 32) (col c : Fin 64) :
    pixel (flipPixel d row col) r c = (pixel d r c ^^ decide (r = row ∧ c = col)) := by
  by_cases hr : r = row
  · subst hr
    by_cases hc : c = col
    · subst hc; simp [pixel, flipPixel]
    · have : (col.val ≠ c.val) := fun e => hc (Fin.ext e.symm)
      simp [pixel, flipPixel, this, hc]
  · have : row.val ≠ r.val := fun e => hr (Fin.ext e.symm)
    simp [pixel, flipPixel, this, hr]

/-- Distinct sprite columns wrap to distinct display columns (44_display.md R222 d). -/
theorem wrapCol_injective {x0 a b : Nat} (ha : a < 8) (hb : b < 8) (h : wrapCol (x0 + a) = wrapCol (x0 + b)) :
    a = b := by
  have := congrArg Fin.val h
  simp [wrapCol, Fin.ofNat] at this
  omega

/-- Distinct sprite rows wrap to distinct display rows (44_display.md R222 d). -/
theorem wrapRow_injective {y a b : Nat} (ha : a < 32) (hb : b < 32) (h : wrapRow (y + a) = wrapRow (y + b)) :
    a = b := by
  have := congrArg Fin.val h
  simp [wrapRow, Fin.ofNat] at this
  omega

/-- The cells that some of the bits `bs` of a sprite byte invert. -/
def rowCovers (x0 : Nat) (byte : Byte) (bs : List Nat) (c : Fin 64) : Prop :=
  ∃ b ∈ bs, byte.getLsbD (7 - b) = true ∧ c = wrapCol (x0 + b)

open Classical in
theorem drawBits_spec (x0 : Nat) (row : Fin 32) (byte : Byte) (bs : List Nat) (g : Drawing) (hn : bs.Nodup)
    (h8 : ∀ b ∈ bs, b < 8) :
    let g' := bs.foldl (fun g b => if byte.getLsbD (7 - b) then xorPixel row (wrapCol (x0 + b)) g else g) g
    (∀ r c, pixel g'.disp r c = (pixel g.disp r c ^^ decide (r = row ∧ rowCovers x0 byte bs c))) ∧
    (g'.hit = true ↔ g.hit = true ∨ ∃ c, rowCovers x0 byte bs c ∧ pixel g.disp row c = true) := by
  induction bs generalizing g with
  | nil => simp [rowCovers]
  | cons b bs ih =>
    have hb := (List.nodup_cons.1 hn).1
    have hb8 := h8 b (by simp)
    have ih := ih (if byte.getLsbD (7 - b) then xorPixel row (wrapCol (x0 + b)) g else g)
      (List.nodup_cons.1 hn).2 (fun d hd => h8 d (by simp [hd]))
    have hnot : ¬ rowCovers x0 byte bs (wrapCol (x0 + b)) := by
      rintro ⟨d, hd, -, e⟩
      exact hb (wrapCol_injective hb8 (h8 d (by simp [hd])) e ▸ hd)
    have hcons : ∀ c, rowCovers x0 byte (b :: bs) c ↔
        (byte.getLsbD (7 - b) = true ∧ c = wrapCol (x0 + b)) ∨ rowCovers x0 byte bs c := by
      intro c; simp [rowCovers]
    simp only [List.foldl_cons]
    obtain ⟨ih1, ih2⟩ := ih
    refine ⟨fun r c => ?_, ?_⟩
    · rw [ih1]
      by_cases hbit : byte.getLsbD (7 - b) = true
      · by_cases hc : c = wrapCol (x0 + b)
        · subst hc
          by_cases hr : r = row <;> simp [hbit, xorPixel, hcons, hnot, hr]
        · simp [hbit, xorPixel, hcons, hc]
      · simp [hbit, hcons]
    · rw [ih2]
      by_cases hbit : byte.getLsbD (7 - b) = true
      · simp only [hbit, if_true, xorPixel, Bool.or_eq_true, hcons]
        constructor
        · rintro ((h | h) | ⟨c, hc, hp⟩)
          · exact .inl h
          · exact .inr ⟨_, .inl ⟨trivial, rfl⟩, h⟩
          · refine .inr ⟨c, .inr hc, ?_⟩
            have : c ≠ wrapCol (x0 + b) := fun e => hnot (e ▸ hc)
            simpa [this] using hp
        · rintro (h | ⟨c, (⟨-, rfl⟩ | hc), hp⟩)
          · exact .inl (.inl h)
          · exact .inl (.inr hp)
          · refine .inr ⟨c, hc, ?_⟩
            have : c ≠ wrapCol (x0 + b) := fun e => hnot (e ▸ hc)
            simpa [this] using hp
      · simp [hbit, hcons]

open Classical in
/-- One sprite row inverts exactly the cells under its set bits; `hit` notes whether one of them was set
(44_display.md R221). -/
theorem drawRow_spec (x0 : Nat) (row : Fin 32) (byte : Byte) (g : Drawing) :
    (∀ r c, pixel (drawRow x0 row byte g).disp r c =
      (pixel g.disp r c ^^ decide (r = row ∧ rowCovers x0 byte (List.range 8) c))) ∧
    ((drawRow x0 row byte g).hit = true ↔
      g.hit = true ∨ ∃ c, rowCovers x0 byte (List.range 8) c ∧ pixel g.disp row c = true) :=
  drawBits_spec x0 row byte (List.range 8) g List.nodup_range (by simp)

/-- The cells under the set bits of a sprite whose first row is drawn at row `y`. -/
def rowsCover (x0 y : Nat) (bytes : List Byte) (r : Fin 32) (c : Fin 64) : Prop :=
  ∃ k byte, bytes[k]? = some byte ∧ r = wrapRow (y + k) ∧ rowCovers x0 byte (List.range 8) c

theorem rowsCover_cons (x0 y : Nat) (byte : Byte) (bytes : List Byte) (r : Fin 32) (c : Fin 64) :
    rowsCover x0 y (byte :: bytes) r c ↔
      (r = wrapRow y ∧ rowCovers x0 byte (List.range 8) c) ∨ rowsCover x0 (y + 1) bytes r c := by
  constructor
  · rintro ⟨k, b, hb, hr, hc⟩
    cases k with
    | zero => simp at hb; subst hb; exact .inl ⟨hr, hc⟩
    | succ k => exact .inr ⟨k, b, by simpa using hb, by rw [hr]; congr 1; omega, hc⟩
  · rintro (⟨hr, hc⟩ | ⟨k, b, hb, hr, hc⟩)
    · exact ⟨0, byte, rfl, hr, hc⟩
    · exact ⟨k + 1, b, by simpa using hb, by rw [hr]; congr 1; omega, hc⟩

open Classical in
/-- A whole sprite of at most 32 rows inverts exactly the cells under its set bits; `hit` notes whether one of them was
set before (44_display.md R221, R222 d). -/
theorem drawRows_spec (x0 y : Nat) (bytes : List Byte) (g : Drawing) (hlen : bytes.length ≤ 32) :
    (∀ r c, pixel (drawRows x0 y bytes g).disp r c = (pixel g.disp r c ^^ decide (rowsCover x0 y bytes r c))) ∧
    ((drawRows x0 y bytes g).hit = true ↔
      g.hit = true ∨ ∃ r c, rowsCover x0 y bytes r c ∧ pixel g.disp r c = true) := by
  induction bytes generalizing y g with
  | nil => simp [drawRows, rowsCover]
  | cons byte bytes ih =>
    rw [List.length_cons] at hlen
    obtain ⟨ih1, ih2⟩ := ih (y + 1) (drawRow x0 (wrapRow y) byte g) (by omega)
    obtain ⟨h1, h2⟩ := drawRow_spec x0 (wrapRow y) byte g
    have hrow : ∀ r c, rowsCover x0 (y + 1) bytes r c → r ≠ wrapRow y := by
      rintro r c ⟨k, b, hb, hr, -⟩ e
      obtain ⟨hk, -⟩ := List.getElem?_eq_some_iff.1 hb
      have := wrapRow_injective (y := y) (a := 0) (b := k + 1) (by omega) (by omega)
        (by rw [Nat.add_zero, ← e, hr]; congr 1; omega)
      omega
    refine ⟨fun r c => ?_, ?_⟩
    · rw [drawRows, ih1, h1]
      by_cases hc : rowsCover x0 (y + 1) bytes r c
      · simp [rowsCover_cons, hc, hrow r c hc]
      · simp [rowsCover_cons, hc]
    · rw [drawRows, ih2, h2]
      constructor
      · rintro ((h | ⟨c, hc, hp⟩) | ⟨r, c, hc, hp⟩)
        · exact .inl h
        · exact .inr ⟨wrapRow y, c, (rowsCover_cons _ _ _ _ _ _).2 (.inl ⟨rfl, hc⟩), hp⟩
        · rw [h1] at hp
          exact .inr ⟨r, c, (rowsCover_cons _ _ _ _ _ _).2 (.inr hc), by simpa [hrow r c hc] using hp⟩
      · rintro (h | ⟨r, c, hc, hp⟩)
        · exact .inl (.inl h)
        · rcases (rowsCover_cons _ _ _ _ _ _).1 hc with ⟨rfl, hc'⟩ | hc
          · exact .inl (.inr ⟨c, hc', hp⟩)
          · exact .inr ⟨r, c, hc, by rw [h1]; simpa [hrow r c hc] using hp⟩

end Sys2Proof.Machine
end

