-- ==== Sys2Proof/Laws/Fields.lean ====
section
/-! SUPPORT. The fields of a word built in one of the formats of 30_encoding.md R91 are the fields it was built
from, and every word is the word of its fields (R92, R93). Everything goes through the word as a number. -/

namespace Sys2Proof

/-! ### Words and fields as numbers -/

theorem append_toNat {m n : Nat} (a : BitVec m) (b : BitVec n) : (a ++ b).toNat = a.toNat * 2 ^ n + b.toNat := by
  rw [BitVec.toNat_append, Nat.shiftLeft_eq, Nat.mul_comm, ← Nat.two_pow_add_eq_or_of_lt b.isLt]

theorem wordNNN_toNat (c : Nibble) (nnn : Addr12) : (wordNNN c nnn).toNat = c.toNat * 4096 + nnn.toNat :=
  append_toNat c nnn

theorem wordXKK_toNat (c x : Nibble) (kk : Byte) :
    (wordXKK c x kk).toNat = (c.toNat * 16 + x.toNat) * 256 + kk.toNat :=
  (append_toNat (c ++ x) kk).trans (by rw [append_toNat]; rfl)

theorem wordXYN_toNat (c x y n : Nibble) :
    (wordXYN c x y n).toNat = ((c.toNat * 16 + x.toNat) * 16 + y.toNat) * 16 + n.toNat :=
  (append_toNat (c ++ x ++ y) n).trans (by rw [append_toNat, append_toNat]; rfl)

theorem classOf_toNat (op : Word) : (classOf op).toNat = op.toNat / 4096 % 16 := by
  simp [classOf, Nat.shiftRight_eq_div_pow]

theorem nnnOf_toNat (op : Word) : (nnnOf op).toNat = op.toNat % 4096 := by simp [nnnOf]

theorem xOf_toNat (op : Word) : (xOf op).toNat = op.toNat / 256 % 16 := by
  simp [xOf, Nat.shiftRight_eq_div_pow]

theorem yOf_toNat (op : Word) : (yOf op).toNat = op.toNat / 16 % 16 := by
  simp [yOf, Nat.shiftRight_eq_div_pow]

theorem kkOf_toNat (op : Word) : (kkOf op).toNat = op.toNat % 256 := by simp [kkOf]

theorem nOf_toNat (op : Word) : (nOf op).toNat = op.toNat % 16 := by simp [nOf]

/-! ### Format NNN -/

@[simp] theorem classOf_wordNNN (c : Nibble) (nnn : Addr12) : classOf (wordNNN c nnn) = c := by
  have := c.isLt; have := nnn.isLt
  apply BitVec.eq_of_toNat_eq; rw [classOf_toNat, wordNNN_toNat]; omega

@[simp] theorem nnnOf_wordNNN (c : Nibble) (nnn : Addr12) : nnnOf (wordNNN c nnn) = nnn := by
  have := nnn.isLt
  apply BitVec.eq_of_toNat_eq; rw [nnnOf_toNat, wordNNN_toNat]; omega

/-! ### Formats XKK and XSS -/

@[simp] theorem classOf_wordXKK (c x : Nibble) (kk : Byte) : classOf (wordXKK c x kk) = c := by
  have := c.isLt; have := x.isLt; have := kk.isLt
  apply BitVec.eq_of_toNat_eq; rw [classOf_toNat, wordXKK_toNat]; omega

@[simp] theorem xOf_wordXKK (c x : Nibble) (kk : Byte) : xOf (wordXKK c x kk) = x := by
  have := c.isLt; have := x.isLt; have := kk.isLt
  apply BitVec.eq_of_toNat_eq; rw [xOf_toNat, wordXKK_toNat]; omega

@[simp] theorem kkOf_wordXKK (c x : Nibble) (kk : Byte) : kkOf (wordXKK c x kk) = kk := by
  have := kk.isLt
  apply BitVec.eq_of_toNat_eq; rw [kkOf_toNat, wordXKK_toNat]; omega

/-! ### Formats XYS and XYN -/

@[simp] theorem classOf_wordXYN (c x y n : Nibble) : classOf (wordXYN c x y n) = c := by
  have := c.isLt; have := x.isLt; have := y.isLt; have := n.isLt
  apply BitVec.eq_of_toNat_eq; rw [classOf_toNat, wordXYN_toNat]; omega

@[simp] theorem xOf_wordXYN (c x y n : Nibble) : xOf (wordXYN c x y n) = x := by
  have := c.isLt; have := x.isLt; have := y.isLt; have := n.isLt
  apply BitVec.eq_of_toNat_eq; rw [xOf_toNat, wordXYN_toNat]; omega

@[simp] theorem yOf_wordXYN (c x y n : Nibble) : yOf (wordXYN c x y n) = y := by
  have := y.isLt; have := n.isLt
  apply BitVec.eq_of_toNat_eq; rw [yOf_toNat, wordXYN_toNat]; omega

@[simp] theorem nOf_wordXYN (c x y n : Nibble) : nOf (wordXYN c x y n) = n := by
  have := n.isLt
  apply BitVec.eq_of_toNat_eq; rw [nOf_toNat, wordXYN_toNat]; omega

/-! ### Every word is the word of its fields -/

theorem wordNNN_fields (op : Word) : wordNNN (classOf op) (nnnOf op) = op := by
  have := op.isLt
  apply BitVec.eq_of_toNat_eq; rw [wordNNN_toNat, classOf_toNat, nnnOf_toNat]; omega

theorem wordXKK_fields (op : Word) : wordXKK (classOf op) (xOf op) (kkOf op) = op := by
  have := op.isLt
  apply BitVec.eq_of_toNat_eq; rw [wordXKK_toNat, classOf_toNat, xOf_toNat, kkOf_toNat]; omega

theorem wordXYN_fields (op : Word) : wordXYN (classOf op) (xOf op) (yOf op) (nOf op) = op := by
  have := op.isLt
  apply BitVec.eq_of_toNat_eq; rw [wordXYN_toNat, classOf_toNat, xOf_toNat, yOf_toNat, nOf_toNat]; omega

end Sys2Proof
end

