-- ==== Sys2Proof/Laws/PerInstr.lean ====
section
/-! SUPPORT. Facts about each instruction as syntax, one lemma per constructor. -/

namespace Sys2Proof.Laws.ClassNibble

/-- The class nibble of each tag, the first hexadecimal digit of its pattern (30_encoding.md R112). -/
def classNibble : Instr → Nibble
  | .cls | .ret | .sys _ => 0x0
  | .jp _ => 0x1
  | .call _ => 0x2
  | .seImm _ _ => 0x3
  | .sneImm _ _ => 0x4
  | .seReg _ _ => 0x5
  | .ldImm _ _ => 0x6
  | .addImm _ _ => 0x7
  | .ldReg _ _ | .or _ _ | .and _ _ | .xor _ _ | .addReg _ _ | .sub _ _ | .shr _ _ | .subn _ _ | .shl _ _ => 0x8
  | .sneReg _ _ => 0x9
  | .ldI _ => 0xA
  | .jpV0 _ => 0xB
  | .rnd _ _ => 0xC
  | .drw _ _ _ => 0xD
  | .skp _ | .sknp _ => 0xE
  | .ldVxDt _ | .ldVxK _ | .ldDtVx _ | .ldStVx _ | .addI _ | .ldF _ | .ldB _ | .stRegs _ | .ldRegs _ => 0xF
  | .unknown raw => classOf raw

/-- The encoder puts the tag's class nibble in bits 15 to 12, where the decoder looks first (30_encoding.md R91, R101). -/
def Statement (i : Instr) : Prop := classOf (encode i) = classNibble i

theorem cls : Statement .cls := by unfold Statement; decide
theorem ret : Statement .ret := by unfold Statement; decide
theorem sys (nnn : Addr12) : Statement (.sys nnn) := classOf_wordNNN _ nnn
theorem jp (nnn : Addr12) : Statement (.jp nnn) := classOf_wordNNN _ nnn
theorem call (nnn : Addr12) : Statement (.call nnn) := classOf_wordNNN _ nnn
theorem seImm (x : Nibble) (kk : Byte) : Statement (.seImm x kk) := classOf_wordXKK _ x kk
theorem sneImm (x : Nibble) (kk : Byte) : Statement (.sneImm x kk) := classOf_wordXKK _ x kk
theorem seReg (x y : Nibble) : Statement (.seReg x y) := classOf_wordXYN _ x y _
theorem ldImm (x : Nibble) (kk : Byte) : Statement (.ldImm x kk) := classOf_wordXKK _ x kk
theorem addImm (x : Nibble) (kk : Byte) : Statement (.addImm x kk) := classOf_wordXKK _ x kk
theorem ldReg (x y : Nibble) : Statement (.ldReg x y) := classOf_wordXYN _ x y _
theorem or (x y : Nibble) : Statement (.or x y) := classOf_wordXYN _ x y _
theorem and (x y : Nibble) : Statement (.and x y) := classOf_wordXYN _ x y _
theorem xor (x y : Nibble) : Statement (.xor x y) := classOf_wordXYN _ x y _
theorem addReg (x y : Nibble) : Statement (.addReg x y) := classOf_wordXYN _ x y _
theorem sub (x y : Nibble) : Statement (.sub x y) := classOf_wordXYN _ x y _
theorem shr (x y : Nibble) : Statement (.shr x y) := classOf_wordXYN _ x y _
theorem subn (x y : Nibble) : Statement (.subn x y) := classOf_wordXYN _ x y _
theorem shl (x y : Nibble) : Statement (.shl x y) := classOf_wordXYN _ x y _
theorem sneReg (x y : Nibble) : Statement (.sneReg x y) := classOf_wordXYN _ x y _
theorem ldI (nnn : Addr12) : Statement (.ldI nnn) := classOf_wordNNN _ nnn
theorem jpV0 (nnn : Addr12) : Statement (.jpV0 nnn) := classOf_wordNNN _ nnn
theorem rnd (x : Nibble) (kk : Byte) : Statement (.rnd x kk) := classOf_wordXKK _ x kk
theorem drw (x y n : Nibble) : Statement (.drw x y n) := classOf_wordXYN _ x y n
theorem skp (x : Nibble) : Statement (.skp x) := classOf_wordXKK _ x _
theorem sknp (x : Nibble) : Statement (.sknp x) := classOf_wordXKK _ x _
theorem ldVxDt (x : Nibble) : Statement (.ldVxDt x) := classOf_wordXKK _ x _
theorem ldVxK (x : Nibble) : Statement (.ldVxK x) := classOf_wordXKK _ x _
theorem ldDtVx (x : Nibble) : Statement (.ldDtVx x) := classOf_wordXKK _ x _
theorem ldStVx (x : Nibble) : Statement (.ldStVx x) := classOf_wordXKK _ x _
theorem addI (x : Nibble) : Statement (.addI x) := classOf_wordXKK _ x _
theorem ldF (x : Nibble) : Statement (.ldF x) := classOf_wordXKK _ x _
theorem ldB (x : Nibble) : Statement (.ldB x) := classOf_wordXKK _ x _
theorem stRegs (x : Nibble) : Statement (.stRegs x) := classOf_wordXKK _ x _
theorem ldRegs (x : Nibble) : Statement (.ldRegs x) := classOf_wordXKK _ x _
theorem unknown (raw : Word) : Statement (.unknown raw) := rfl

end Sys2Proof.Laws.ClassNibble
end

