-- ==== Sys2Proof/Tests/Slice0.lean ====
section
/-! SUPPORT. Tests of this sitting. Expected values come from the spec: the opcode map (30_encoding.md R112), the
worked examples S1 to S10 and the vectors T-... of 95_test_vectors.md. The last part shows, for every statement with
hypotheses, a state and operands that meet them. -/

namespace Sys2Proof.Tests

open Sys2Proof.Machine

/-! ### Building a small state -/

/-- The start state of the vectors: after Reset and a Load of no bytes, PC = 0x200. -/
def start : State := loadRom [] State.reset

/-- A machine halted by a RET on an empty stack. -/
def stuck : State :=
  { start with mode := .halted, err := some (.stackError .underflow), status := some (.error (.stackError .underflow)) }

/-- Some general registers set. -/
def regs (l : List (Nibble × Byte)) (s : State) : State := l.foldl (fun s p => s.setV p.1 p.2) s

/-- The next state of an outcome, if it is one. -/
def nextOf : Host.Outcome State Fault Refusal → Option State
  | .next t => some t
  | _ => none

/-- One step with the word placed where it is fetched. -/
def ran (op : Word) (s : State) : Option State := nextOf (step (placeForFetch op s))

/-- What the step left in some registers, and PC. -/
def seen (l : List Nibble) (o : Option State) : Option (List Byte × Word) := o.map (fun t => (l.map t.readV, t.pc))

/-- Status, MODE and PC after the step. -/
def ended (o : Option State) : Option (Option Status × RunMode × Word) := o.map (fun t => (t.status, t.mode, t.pc))

/-- Some bytes of memory after the step. -/
def bytes (l : List Nat) (o : Option State) : Option (List Byte) := o.map (fun t => l.map t.byteAt)

/-- The first cells of a display row. -/
def cells (row : Fin 32) (l : List (Fin 64)) (o : Option State) : Option (List Bool) :=
  o.map (fun t => l.map (pixel t.disp row))

/-! ### WellFormed: the two checks refuse (30_encoding.md R102, R116) -/

theorem test_wf_refuses_sys_of_cls : (Instr.sys 0x0E0).wellFormed = false := by decide
theorem test_wf_refuses_sys_of_ret : (Instr.sys 0x0EE).wellFormed = false := by decide
theorem test_wf_refuses_unknown_of_jp : (Instr.unknown 0x1ABC).wellFormed = false := by decide
theorem test_wf_refuses_unknown_of_ld_reg : (Instr.unknown 0x8AB0).wellFormed = false := by decide
theorem test_wf_accepts : (Instr.sys 0x1E0).wellFormed = true ∧ (Instr.unknown 0x8AB8).wellFormed = true ∧
    (Instr.unknown 0xF075).wellFormed = true := by decide

/-! ### Decoding: words written out from the opcode map (T-DEC-1 to T-DEC-21) -/

theorem test_decode_class_0 : decode 0x00E0 = .cls ∧ decode 0x00EE = .ret ∧ decode 0x0000 = .sys 0x000 ∧
    decode 0x01E0 = .sys 0x1E0 ∧ decode 0x0FEE = .sys 0xFEE ∧ decode 0x00E1 = .sys 0x0E1 := by decide
theorem test_decode_addresses : decode 0x1ABC = .jp 0xABC ∧ decode 0x2200 = .call 0x200 ∧ decode 0xA123 = .ldI 0x123 ∧
    decode 0xB300 = .jpV0 0x300 := by decide
theorem test_decode_immediates : decode 0x3A42 = .seImm 0xA 0x42 ∧ decode 0x4A42 = .sneImm 0xA 0x42 ∧
    decode 0x6AFF = .ldImm 0xA 0xFF ∧ decode 0x71FF = .addImm 1 0xFF ∧ decode 0xC30F = .rnd 3 0x0F := by decide
theorem test_decode_register_skips : decode 0x5120 = .seReg 1 2 ∧ decode 0x9AB0 = .sneReg 0xA 0xB ∧
    decode 0x5121 = .unknown 0x5121 ∧ decode 0x9ABF = .unknown 0x9ABF := by decide
theorem test_decode_class_8 : decode 0x8AB0 = .ldReg 0xA 0xB ∧ decode 0x8AB1 = .or 0xA 0xB ∧
    decode 0x8AB2 = .and 0xA 0xB ∧ decode 0x8AB3 = .xor 0xA 0xB ∧ decode 0x8AB4 = .addReg 0xA 0xB ∧
    decode 0x8AB5 = .sub 0xA 0xB ∧ decode 0x8AB6 = .shr 0xA 0xB ∧ decode 0x8AB7 = .subn 0xA 0xB ∧
    decode 0x8ABE = .shl 0xA 0xB := by decide
theorem test_decode_class_8_unknown : [0x8AB8, 0x8AB9, 0x8ABA, 0x8ABB, 0x8ABC, 0x8ABD, 0x8ABF].all
    (fun op => decode op == .unknown op) = true := by decide
theorem test_decode_display_and_keys : decode 0xD123 = .drw 1 2 3 ∧ decode 0xD000 = .drw 0 0 0 ∧
    decode 0xE09E = .skp 0 ∧ decode 0xE0A1 = .sknp 0 := by decide
theorem test_decode_class_f : decode 0xF007 = .ldVxDt 0 ∧ decode 0xF30A = .ldVxK 3 ∧ decode 0xF015 = .ldDtVx 0 ∧
    decode 0xF118 = .ldStVx 1 ∧ decode 0xF01E = .addI 0 ∧ decode 0xF529 = .ldF 5 ∧ decode 0xF033 = .ldB 0 ∧
    decode 0xF255 = .stRegs 2 ∧ decode 0xF265 = .ldRegs 2 := by decide
theorem test_decode_e_f_unknown : [0xE09F, 0xE000, 0xEFFF, 0xF000, 0xF075, 0xF085, 0xF0FF, 0xFFFF].all
    (fun op => decode op == .unknown op) = true := by decide
/-- The fields of D123 (S10). -/
theorem test_fields : nnnOf 0xD123 = 0x123 ∧ xOf 0xD123 = 1 ∧ yOf 0xD123 = 2 ∧ kkOf 0xD123 = 0x23 ∧
    nOf 0xD123 = 3 ∧ classOf 0xD123 = 0xD := by decide
/-- Two bytes, the high one first; what follows is left; one byte is no instruction (30_encoding.md R90). -/
theorem test_decode_bytes : decodeBytes [0x6A, 0x55, 0x12] = .ok (.ldImm 0xA 0x55, [0x12]) ∧
    decodeBytes [0x6A] = .error .truncated ∧ encodeBytes (.drw 1 2 5) = [0xD1, 0x25] := by
  refine ⟨rfl, rfl, by decide⟩
theorem test_decode_table_word : decodeTableWord 16 0x00EE = some .ret ∧ decodeTableWord 16 0x8AB4 = some (.addReg 0xA 0xB) := by
  decide

/-! ### Control flow (T-CF) -/

theorem test_sys_is_a_noop : ended (ran 0x0123 start) = some (some .ok, .running, 0x202) := by decide
theorem test_jp : ended (ran 0x1ABC start) = some (some .ok, .running, 0xABC) := by decide
theorem test_call : (ran 0x2ABC start).map (fun t => (t.stack[0], t.sp, t.pc)) = some (0x202, 1, 0xABC) := by decide
theorem test_call_overflow : (ran 0x2300 { start with sp := 16 }).map (fun t => (t.mode, t.err, t.pc, t.sp)) =
    some (.halted, some (.stackError .overflow), 0x202, 16) := by decide
theorem test_ret : (ran 0x00EE { start with sp := 1, stack := start.stack.set 0 0x456 }).map
    (fun t => (t.sp, t.pc, t.stack[0])) = some (0, 0x456, 0x456) := by decide
theorem test_ret_underflow : (ran 0x00EE start).map (fun t => (t.status, t.mode, t.err, t.pc, t.sp)) =
    some (some (.error (.stackError .underflow)), .halted, some (.stackError .underflow), 0x202, 0) := by decide
theorem test_jp_v0 : ended (ran 0xB300 (regs [(0, 0x10)] start)) = some (some .ok, .running, 0x310) := by decide
theorem test_jp_v0_is_not_masked : ended (ran 0xBFFF (regs [(0, 0xFF)] start)) = some (some .ok, .running, 0x10FE) := by
  decide
theorem test_se_imm : seen [] (ran 0x3A42 (regs [(0xA, 0x42)] start)) = some ([], 0x204) ∧
    seen [] (ran 0x3A42 (regs [(0xA, 0x41)] start)) = some ([], 0x202) := by decide
theorem test_sne_imm : seen [] (ran 0x4A42 (regs [(0xA, 0x41)] start)) = some ([], 0x204) ∧
    seen [] (ran 0x4A42 (regs [(0xA, 0x42)] start)) = some ([], 0x202) := by decide
theorem test_se_reg : seen [] (ran 0x5120 (regs [(1, 7), (2, 7)] start)) = some ([], 0x204) ∧
    seen [] (ran 0x5120 (regs [(1, 7), (2, 8)] start)) = some ([], 0x202) := by decide
theorem test_sne_reg : seen [] (ran 0x9120 (regs [(1, 7), (2, 8)] start)) = some ([], 0x204) ∧
    seen [] (ran 0x9120 (regs [(1, 7), (2, 7)] start)) = some ([], 0x202) := by decide
/-- A skip past the top of memory (T-CF-22). -/
theorem test_skip_past_the_top : ended (ran 0x3000 { start with pc := 0xFFC }) = some (some .ok, .running, 0x1000) := by
  decide

/-! ### Fetch and halting (T-MEM) -/

theorem test_fetch_at_the_top : seen [0] (ran 0x6001 { start with pc := 0xFFE }) = some ([1], 0x1000) := by decide
theorem test_fetch_faults : ended (nextOf (step { start with pc := 0x1000 })) =
      some (some (.error (.memoryFault 4096)), .halted, 0x1000) ∧
    ended (nextOf (step { start with pc := 0xFFF })) = some (some (.error (.memoryFault 4096)), .halted, 0xFFF) ∧
    ended (nextOf (step { start with pc := 0x10FE })) =
      some (some (.error (.memoryFault 0x10FE)), .halted, 0x10FE) := by decide
theorem test_odd_pc : seen [0xA] (ran 0x6A55 { start with pc := 0x201 }) = some ([0x55], 0x203) := by decide
theorem test_halted_is_sticky : (nextOf (step { stuck with keys := 4 })).map (fun t => (t.status, t.kprev, t.pc)) =
    some (some (.error (.stackError .underflow)), 0, 0x200) := by decide
theorem test_unknown_fatal : (ran 0x5121 start).map (fun t => (t.status, t.mode, t.err, t.pc)) =
    some (some (.error (.decodeError 0x5121)), .halted, some (.decodeError 0x5121), 0x202) := by decide
theorem test_unknown_nop : (ran 0x5121 { start with params := { defaultParams with unknownPolicy := .nop } }).map
    (fun t => (t.status, t.mode, t.err, t.pc)) =
    some (some (.error (.decodeError 0x5121)), .running, none, 0x202) := by decide
theorem test_error_codes : errorCode none = 0 ∧ errorCode (some (.decodeError 0x5121)) = 1 ∧
    errorCode (some (.stackError .overflow)) = 2 ∧ errorCode (some (.memoryFault 4096)) = 3 ∧
    loadCode (.capacityError 3585) = 4 := by decide

/-! ### Arithmetic and logic (T-ALU, S2 to S4) -/

theorem test_ld_imm : seen [0xA] (ran 0x6AFF start) = some ([0xFF], 0x202) := by decide
theorem test_add_imm_wraps_without_flag : seen [0, 15] (ran 0x70FF (regs [(0, 2), (15, 9)] start)) = some ([1, 9], 0x202) := by
  decide
theorem test_add_imm_on_vf : seen [15] (ran 0x7F01 (regs [(15, 0xFF)] start)) = some ([0], 0x202) := by decide
theorem test_ld_reg : seen [0, 1] (ran 0x8010 (regs [(0, 1), (1, 0x99)] start)) = some ([0x99, 0x99], 0x202) := by decide
theorem test_or : seen [0, 15] (ran 0x8011 (regs [(0, 0xF0), (1, 0x0F), (15, 0x55)] start)) = some ([0xFF, 0x55], 0x202) := by
  decide
theorem test_and : seen [0, 15] (ran 0x8012 (regs [(0, 0xF0), (1, 0x3C), (15, 0x55)] start)) = some ([0x30, 0x55], 0x202) := by
  decide
theorem test_xor : seen [0, 15] (ran 0x8013 (regs [(0, 0xFF), (1, 0x0F), (15, 0x55)] start)) = some ([0xF0, 0x55], 0x202) := by
  decide
theorem test_add_reg : seen [0, 15] (ran 0x8014 (regs [(0, 0xFF), (1, 1)] start)) = some ([0, 1], 0x202) ∧
    seen [0, 15] (ran 0x8014 (regs [(0, 1), (1, 1)] start)) = some ([2, 0], 0x202) := by decide
theorem test_add_reg_vf : seen [0, 15] (ran 0x80F4 (regs [(0, 0x10), (15, 0x20)] start)) = some ([0x30, 0], 0x202) ∧
    seen [15] (ran 0x8F14 (regs [(15, 0xFF), (1, 1)] start)) = some ([0], 0x202) := by decide
theorem test_sub : seen [0, 15] (ran 0x8015 (regs [(0, 5), (1, 0xA)] start)) = some ([0xFB, 0], 0x202) ∧
    seen [0, 15] (ran 0x8015 (regs [(0, 0xA), (1, 5)] start)) = some ([5, 1], 0x202) := by decide
theorem test_sub_equal_and_vf : seen [0, 15] (ran 0x8015 (regs [(0, 7), (1, 7)] start)) = some ([0, 1], 0x202) ∧
    seen [15] (ran 0x8F15 (regs [(15, 5), (1, 0xA)] start)) = some ([0xFB], 0x202) := by decide
theorem test_shr : seen [0, 1, 15] (ran 0x8016 (regs [(0, 3), (1, 0xF0)] start)) = some ([1, 0xF0, 1], 0x202) := by decide
theorem test_shr_vf : seen [15] (ran 0x8F06 (regs [(15, 2)] start)) = some ([1], 0x202) := by decide
theorem test_subn : seen [0, 15] (ran 0x8017 (regs [(0, 5), (1, 0xA)] start)) = some ([5, 1], 0x202) ∧
    seen [0, 15] (ran 0x8017 (regs [(0, 0xA), (1, 5)] start)) = some ([0xFB, 0], 0x202) := by decide
theorem test_shl : seen [0, 1, 15] (ran 0x801E (regs [(0, 0x81), (1, 0x0F)] start)) = some ([2, 0x0F, 1], 0x202) := by decide
theorem test_shl_vf : seen [15] (ran 0x8F0E (regs [(15, 0xC0)] start)) = some ([0x80], 0x202) := by decide
/-- T-ALU-29 and T-ALU-31: what RND makes of a drawn byte. -/
theorem test_rnd_masks_the_draw : (start.setMaskedDraw 0 0x0F 0xA7).readV 0 = 0x07 ∧
    (start.setMaskedDraw 5 0xFF 0x3C).readV 5 = 0x3C := by decide
theorem test_rnd_takes_a_draw : (ran 0xC00F start).map (fun t => (t.draws, t.pc, t.readV 1)) = some (1, 0x202, 0) := by decide

/-! ### The address register and memory (T-IDX) -/

theorem test_ld_i : (ran 0xAFFF start).map (·.i) = some 0x0FFF := by decide
theorem test_add_i : (ran 0xF01E (regs [(0, 2), (15, 7)] { start with i := 0xFFFF })).map (fun t => (t.i, t.readV 15)) =
    some (1, 7) := by decide
theorem test_add_i_leaves_memory_range : (ran 0xF01E (regs [(0, 1)] { start with i := 0xFFF })).map (·.i) = some 0x1000 := by
  decide
theorem test_ld_f : (ran 0xF029 (regs [(0, 0x1A)] start)).map (·.i) = some 0x32 ∧
    (ran 0xF529 (regs [(5, 0xFF)] start)).map (·.i) = some 0x4B := by decide
theorem test_ld_b : bytes [0x300, 0x301, 0x302] (ran 0xF033 (regs [(0, 0x9C)] { start with i := 0x300 })) =
    some [1, 5, 6] := by decide
theorem test_ld_b_faults : (ran 0xF033 (regs [(0, 0xFF)] { start with i := 0xFFE })).map
    (fun t => (t.err, t.mode, t.pc, t.byteAt 0xFFE)) = some (some (.memoryFault 4096), .halted, 0x202, 0) := by decide
theorem test_st_regs : (ran 0xF255 (regs [(0, 0x11), (1, 0x22), (2, 0x33), (3, 0x44)] { start with i := 0x400 })).map
    (fun t => ([0x400, 0x401, 0x402, 0x403].map t.byteAt, t.i)) = some ([0x11, 0x22, 0x33, 0], 0x400) := by decide
theorem test_st_regs_faults : (ran 0xF155 (regs [(0, 0x11), (1, 0x22)] { start with i := 0xFFF })).map
    (fun t => (t.err, t.byteAt 0xFFF)) = some (some (.memoryFault 4096), 0) := by decide
theorem test_ld_regs : (ran 0xF265 ((regs [(3, 0x55)] { start with i := 0x400 }).storeBytes 0x400 [9, 8, 7, 6])).map
    (fun t => ([0, 1, 2, 3].map t.readV, t.i)) = some ([9, 8, 7, 0x55], 0x400) := by decide
theorem test_ld_regs_faults : (ran 0xF265 ({ start with i := 0xFFE }.storeBytes 0xFFE [1, 2])).map
    (fun t => (t.err, t.readV 0)) = some (some (.memoryFault 4096), 0) := by decide

/-! ### The display (T-DSP, S6) -/

/-- A sprite byte at 0x300 and I there. -/
def sprite (b : Byte) (s : State) : State := { s with i := 0x300 }.storeBytes 0x300 [b]

theorem test_cls : (ran 0x00E0 (regs [(15, 3)] (start.setDisp (flipPixel blankDisplay 31 63)))).map
    (fun t => (decide (t.disp = blankDisplay), t.readV 15)) = some (true, 3) := by decide
theorem test_drw_twice : cells 0 [0, 7, 8] (ran 0xD011 (sprite 0xFF start)) = some [true, true, false] ∧
    ((ran 0xD011 (sprite 0xFF start)).bind (ran 0xD011)).map (fun t => (decide (t.disp = blankDisplay), t.readV 15)) =
      some (true, 1) := by decide
/-- Column 67 wraps to 3; bit 7 is leftmost (T-DSP-4). -/
theorem test_drw_wraps : cells 0 [60, 61, 2, 3] (ran 0xD011 (regs [(0, 60)] (sprite 0x81 start))) =
    some [true, false, false, true] := by decide

/-! ### Keypad and timers (T-KEY, T-TMR) -/

theorem test_skp : seen [] (ran 0xE09E (regs [(0, 0x15)] { start with keys := 0x20 })) = some ([], 0x204) ∧
    seen [] (ran 0xE09E (regs [(0, 5)] start)) = some ([], 0x202) := by decide
theorem test_sknp : seen [] (ran 0xE0A1 (regs [(0, 5)] { start with keys := 0x20 })) = some ([], 0x202) ∧
    seen [] (ran 0xE0A1 (regs [(0, 5)] start)) = some ([], 0x204) := by decide
theorem test_ld_k_blocks : ended (ran 0xF30A start) = some (some .blocked, .blocked, 0x200) := by decide
theorem test_ld_k_takes_the_lowest_new_key : seen [0xA] (ran 0xFA0A { start with keys := 0x210, kprev := 0x10 }) =
      some ([9], 0x202) ∧
    (ran 0xF00A { start with keys := 0x210 }).map (fun t => (t.readV 0, t.kprev)) = some (4, 0x210) := by decide
theorem test_ld_vx_dt : seen [2] (ran 0xF207 { start with dt := 0x2A }) = some ([0x2A], 0x202) := by decide
theorem test_ld_dt_vx : (ran 0xF015 (regs [(0, 0x3C)] start)).map (fun t => (t.dt, t.st)) = some (0x3C, 0) := by decide
theorem test_ld_st_vx : (ran 0xF118 (regs [(1, 0x0A)] start)).map (fun t => (t.dt, t.st)) = some (0, 0x0A) := by decide
theorem test_timer_tick : (hostTimerTick { start with dt := 1 }).dt = 0 ∧
    (hostTimerTick (hostTimerTick { start with dt := 1 })).dt = 0 ∧ (hostTimerTick start).st = 0 := by decide

/-! ### Reset and load (T-RST) -/

theorem test_reset_font : [0, 1, 2, 3, 4].map State.reset.byteAt = [0xF0, 0x90, 0x90, 0x90, 0xF0] ∧
    [0x4B, 0x4C, 0x4D, 0x4E, 0x4F, 0x50, 0xFFF].map State.reset.byteAt = [0xF0, 0x80, 0xF0, 0x80, 0x80, 0, 0] := by decide
theorem test_load_bounds : romFits 0 = true ∧ romFits 3584 = true ∧ romFits 3585 = false ∧ romFits 3839 = false := by decide
theorem test_load_leaves_halted : (hostLoad [0x12, 0x00] stuck).1 = .ok ∧
    (hostLoad [0x12, 0x00] stuck).2.err = none ∧
    ended (some (hostLoad [0x12, 0x00] stuck).2) = some (stuck.status, .running, 0x200) := by decide
theorem test_step_before_load : step State.reset = .refused .stepBeforeLoad := rfl
/-- The host's placement: the very next step after reset runs the word. -/
theorem test_with_fetch_word : seen [0xA] (nextOf (step (State.reset.withFetchWord 16 0x6A55))) = some ([0x55], 0x202) ∧
    ended (nextOf (step (State.reset.withFetchWord 16 0x1ABC))) = some (some .ok, .running, 0xABC) := by decide
/-- P6 after its fourth step: the word just stored is the one fetched. -/
theorem test_self_modifying_code : seen [2] ((ran 0xF155 (regs [(0, 0x62), (1, 0xAB)]
    { start with pc := 0x206, i := 0x208 })).bind (fun t => nextOf (step t))) = some ([0xAB], 0x20A) := by decide

/-! ### Witnesses: states and operands that meet the hypotheses of the statements, each clause at a boundary -/

/-- The start state with the two bytes of a word at an address and PC there. -/
def poised (pc op : Word) (s : State) : State := placeForFetch op { s with pc := pc }

/-- The start state with SP at some depth and every return address 0x202. -/
def deep (sp : Byte) : State := { start with sp := sp, stack := Vector.replicate 16 0x202 }

theorem witness_StepBeforeLoadIsRefused : State.reset.loaded = false ∧ 4096 < (List.replicate 3585 (0 : Byte)).length + 0x200 := by
  rw [List.length_replicate]; exact ⟨rfl, by decide⟩
theorem witness_LoadCopiesRomAndStartsAtBase : (List.replicate 3584 (0xAA : Byte)).length + 0x200 ≤ 4096 ∧
    4096 < (List.replicate 3585 (0xAA : Byte)).length + 0x200 := by
  rw [List.length_replicate, List.length_replicate]; decide
theorem witness_HaltedIsStickyUntilResetOrLoad : (stuck.loaded = true ∧ stuck.mode = .halted ∧
      stuck.err = some (.stackError .underflow)) ∧
    (∃ t, applyMove .reset stuck = .next t ∧ t.mode ≠ .halted) ∧
    (∃ t, applyMove (.load [0x12, 0x00]) stuck = .next t ∧ t.mode ≠ .halted) :=
  ⟨by decide, ⟨hostReset stuck, rfl, by decide⟩, ⟨(hostLoad [0x12, 0x00] stuck).2, rfl, by decide⟩⟩
theorem witness_FetchFaultHaltsAndKeepsPc : start.loaded = true ∧ start.mode ≠ .halted ∧
    0xFFF ≤ ({ start with pc := 0xFFF } : State).pc.toNat ∧ 0xFFF ≤ ({ start with pc := 0x1000 } : State).pc.toNat ∧
    0xFFF ≤ ({ start with pc := 0xFFFF } : State).pc.toNat := by decide
theorem witness_fetches : fetches start ∧ fetches { start with pc := 0xFFE } ∧ fetches { start with pc := 0 } ∧
    fetches { start with mode := .blocked } := by unfold fetches; decide
theorem witness_EncodeDecodeBijection : (Instr.drw 15 15 15).wellFormed = true ∧ (Instr.sys 0x0EF).wellFormed = true ∧
    (Instr.unknown 0xFFFF).wellFormed = true := by decide
theorem witness_UnknownSpaceIsExactlyTheTable : decode 0x9ABF = .unknown 0x9ABF ∧ decode 0xF0FF = .unknown 0xF0FF := by decide
theorem witness_SysAndJumpSetPcOnly : (0x0E1 : Addr12) ≠ 0x0E0 ∧ (0x0E1 : Addr12) ≠ 0x0EE := by decide
theorem witness_JumpWithOffsetIsNotMasked : start.loaded = true ∧
    0xFFF ≤ (0xFFF : Addr12).toNat + ((regs [(0, 0)] start).readV 0).toNat ∧
    0xFFF ≤ (0xFFF : Addr12).toNat + ((regs [(0, 0xFF)] start).readV 0).toNat := by decide
theorem witness_CallPushesAdvancedPcOrOverflows : (deep 0).sp.toNat = (0 : Fin 16).val ∧
    (deep 15).sp.toNat = (15 : Fin 16).val ∧ (deep 16).sp.toNat = 16 := by decide
theorem witness_RetPopsOrUnderflows : (deep 1).sp.toNat = (0 : Fin 16).val + 1 ∧
    (deep 16).sp.toNat = (15 : Fin 16).val + 1 ∧ (deep 0).sp.toNat = 0 := by decide
theorem witness_IllegalStackPointerStops : 16 < (deep 17).sp.toNat ∧ 16 < (deep 255).sp.toNat := by decide
/-- The word at 0xFFE is fetched and is a skip whose condition is `c`. -/
def skipsAtTop (op : Word) (c : Bool) : Prop :=
  fetches (poised 0xFFE op start) ∧ skipCondition (poised 0xFFE op start) (decode (poised 0xFFE op start).fetchWord) = some c

theorem witness_SkipStepAdvancesByFourOrTwo : skipsAtTop 0x3000 true ∧ skipsAtTop 0x4000 false ∧
    skipsAtTop 0x5010 true ∧ skipsAtTop 0x9010 false ∧ skipsAtTop 0xE09E false ∧ skipsAtTop 0xE0A1 true := by
  unfold skipsAtTop fetches; decide
theorem witness_CallThenRetRestoresPc : (deep 0).sp.toNat < 16 ∧ (deep 15).sp.toNat < 16 ∧
    (5 : Fin 16).val ≠ (deep 15).sp.toNat := by decide
theorem witness_SeventeenthCallOverflows : start.sp = 0 := by decide
/-- For the three statements about the flag-writing ALU instructions: a destination other than VF. -/
theorem witness_flag_destination : (0 : Nibble) ≠ 15 ∧ (14 : Nibble) ≠ 15 := by decide
theorem witness_BcdStoreWritesThreeDigitsOrFaults : ({ start with i := 4093 } : State).i.toNat + 2 < 4096 ∧
    4096 ≤ ({ start with i := 4094 } : State).i.toNat + 2 := by decide
/-- For the block store, the block load, and the load after the store. -/
theorem witness_block_ranges : ({ start with i := 4080 } : State).i.toNat + (15 : Nibble).toNat < 4096 ∧
    4096 ≤ ({ start with i := 4081 } : State).i.toNat + (15 : Nibble).toNat ∧
    (15 : Nibble).toNat ≤ (15 : Nibble).toNat := by decide
theorem witness_DrwXorsSpriteAndReportsCollision : ((0 : Nibble).toNat = 0 ∨ (0xFFFF : Word).toNat + (0 : Nibble).toNat ≤ 4096) ∧
    ({ start with i := 4081 } : State).i.toNat + (15 : Nibble).toNat ≤ 4096 ∧
    (15 : Nibble).toNat ≠ 0 ∧ 4096 < ({ start with i := 4082 } : State).i.toNat + (15 : Nibble).toNat := by decide
/-- A sprite bit on a set cell, and no bit on a set cell. -/
theorem witness_DrwXorsSpriteAndReportsCollision_cells :
    (∃ row col, spriteCovers (sprite 0x01 (start.setDisp (flipPixel blankDisplay 0 7))) 0 0 1 row col ∧
      pixel (flipPixel blankDisplay 0 7) row col = true) ∧
    (¬ ∃ row col, spriteCovers (sprite 0x00 start) 0 0 1 row col ∧ pixel start.disp row col = true) := by
  refine ⟨⟨0, 7, ⟨0, 7, by decide, by decide, by decide, by decide, by decide⟩, by decide⟩, ?_⟩
  rintro ⟨row, col, -, h⟩
  simp [pixel, start, loadRom, State.reset, State.resetWith] at h
theorem witness_DrawingTwiceRestoresTheDisplay : (0 : Nibble) ≠ 15 ∧ (1 : Nibble) ≠ 15 ∧
    (sprite 0xFF start).i.toNat + (1 : Nibble).toNat ≤ 4096 ∧
    (∃ row col, spriteCovers (sprite 0xFF start) 0 1 1 row col ∧ pixel (sprite 0xFF start).disp row col = false) := by
  refine ⟨by decide, by decide, by decide, 0, 7, ⟨0, 7, by decide, by decide, by decide, by decide, by decide⟩, by decide⟩
/-- A lowest new key (the highest and the lowest number), and no new key (none pressed, all held). -/
theorem witness_KeyWaitTakesLowestNewKeyOrBlocks :
    ((0x8001#16).getLsbD 15 = true ∧ (0x0001#16).getLsbD 15 = false ∧
      ∀ j < 15, (0x8001#16).getLsbD j = true → (0x0001#16).getLsbD j = true) ∧
    ((0x0001#16).getLsbD 0 = true ∧ (0x0000#16).getLsbD 0 = false) ∧
    (∀ j < 16, (0x0000#16).getLsbD j = true → (0x0000#16).getLsbD j = true) ∧
    (∀ j < 16, (0xFFFF#16).getLsbD j = true → (0xFFFF#16).getLsbD j = true) := by decide
theorem witness_KeyWait_step : fetches (poised 0xFFE 0xFF0A start) ∧
    decode (poised 0xFFE 0xFF0A start).fetchWord = .ldVxK 15 ∧
    (∀ j < 16, (poised 0xFFE 0xFF0A start).keys.getLsbD j = true → (poised 0xFFE 0xFF0A start).kprev.getLsbD j = true) := by
  unfold fetches; decide
theorem witness_UnknownRaisesDecodeErrorByPolicy : isUnknownWord 0x5001 = true ∧ isUnknownWord 0xFFFF = true ∧
    start.params.unknownPolicy = .fatal ∧
    ({ start with params := { defaultParams with unknownPolicy := .nop } } : State).params.unknownPolicy = .nop := by decide
/-- The invariant holds of the start state, of a full stack and of a halted machine. -/
theorem witness_invariant : MachineInv start ∧ MachineInv (deep 16) ∧ MachineInv stuck :=
  ⟨⟨by decide, by decide, by decide, by decide, by decide, by decide⟩,
    ⟨by decide, by decide, by decide, by decide, by decide, by decide⟩,
    ⟨by decide, by decide, by decide, by decide, by decide, by decide⟩⟩
/-- A state that meets the invariant, with a program loaded, whose step answers a next state. -/
theorem witness_StepKeepsTheInvariant : MachineInv start ∧ start.loaded = true ∧ ∃ t, step start = .next t :=
  ⟨witness_invariant.1, by decide, _, rfl⟩
theorem witness_HostMovesKeepTheInvariant : Move.setKey 15 true ≠ .step ∧ MachineInv start ∧
    ∃ t, applyMove (.setKey 15 true) start = .next t := ⟨by decide, witness_invariant.1, _, rfl⟩
theorem witness_EveryReachableStateMeetsTheInvariant : Reachable start ∧ start.loaded = true :=
  ⟨.moved (.load []) (.constructed defaultParams 0) rfl, by decide⟩
/-- One instruction for each clause that writes the clause's piece. -/
theorem witness_OnlyDedicatedInstructionsWriteEachPiece :
    (∃ t, exec (.ldDtVx 0) (regs [(0, 7)] start) = .next t ∧ t.dt ≠ (regs [(0, 7)] start).dt) ∧
    (∃ t, exec (.ldStVx 0) (regs [(0, 7)] start) = .next t ∧ t.st ≠ (regs [(0, 7)] start).st) ∧
    (∃ t, exec (.ldI 5) start = .next t ∧ t.i ≠ start.i) ∧
    (∃ t, exec (.drw 0 0 1) (sprite 0x80 start) = .next t ∧ pixel t.disp 0 0 ≠ pixel start.disp 0 0) ∧
    (∃ t, exec (.call 0x300) start = .next t ∧ t.stack[(0 : Fin 16)] ≠ start.stack[(0 : Fin 16)] ∧ t.sp ≠ start.sp) ∧
    (∃ t, exec (.ldB 0) { regs [(0, 7)] start with i := 0xFFD } = .next t ∧ t.byteAt 0xFFF ≠ start.byteAt 0xFFF) ∧
    (∃ t, exec (.rnd 0 0) start = .next t ∧ t.draws ≠ start.draws) :=
  ⟨⟨_, rfl, by decide⟩, ⟨_, rfl, by decide⟩, ⟨_, rfl, by decide⟩, ⟨_, rfl, by decide⟩, ⟨_, rfl, by decide⟩,
    ⟨_, rfl, by decide⟩, ⟨_, rfl, by decide⟩⟩
/-- The clauses for PC (a jump, a skip whose condition holds, a blocked LD Vx,K) and for ERR. -/
theorem witness_OnlyDedicatedInstructions_pc_err :
    (∃ t, exec (.jp 0xFFF) start = .next t ∧ t.pc ≠ start.pc) ∧
    (∃ t, exec (.seReg 15 15) start = .next t ∧ t.pc ≠ start.pc) ∧
    (∃ t, exec (.ldVxK 0) start = .next t ∧ t.pc ≠ start.pc ∧ t.mode = .blocked) ∧
    (∃ t, exec (.unknown 0x5121) start = .next t ∧ t.err ≠ start.err) ∧
    (∃ t, exec .ret start = .next t ∧ t.err ≠ start.err) :=
  ⟨⟨_, rfl, by decide⟩, ⟨_, rfl, by decide⟩, ⟨_, rfl, by decide⟩, ⟨_, rfl, by decide⟩, ⟨_, rfl, by decide⟩⟩
theorem witness_RegistersAreWrittenAsTheTableSays :
    (∃ t, exec (.ldImm 15 1) start = .next t ∧ t.readV 15 ≠ start.readV 15) ∧
    (∃ t, exec (.subn 0 1) start = .next t ∧ t.readV 15 ≠ start.readV 15) := ⟨⟨_, rfl, by decide⟩, ⟨_, rfl, by decide⟩⟩
/-- A step that answers a next state, one that faults, one that is refused. -/
theorem witness_SoundTimerIsInvisibleToTheCore : (∃ t, step start = .next t) ∧
    step (poised 0x200 0x2300 (deep 17)) = .fault (.stackPointerIllegal 17) ∧
    step State.reset = .refused .stepBeforeLoad := ⟨⟨_, rfl⟩, rfl, rfl⟩
/-- Steps with status OK, BLOCKED, a fatal error and a non-fatal one, and a step in HALTED. -/
theorem witness_step_statuses : start.mode ≠ .halted ∧ stuck.mode = .halted ∧
    (∃ t, step start = .next t ∧ t.status = some .ok) ∧
    (∃ t, step (poised 0x200 0xF00A start) = .next t ∧ t.status = some .blocked) ∧
    (∃ t, step (poised 0x200 0x00EE start) = .next t ∧ t.status = some (.error (.stackError .underflow))) ∧
    (∃ t, step (poised 0x200 0x5121 { start with params := { defaultParams with unknownPolicy := .nop } }) = .next t ∧
      t.status = some (.error (.decodeError 0x5121)) ∧ t.mode = .running) ∧ ∃ t, step stuck = .next t :=
  ⟨by decide, by decide, ⟨_, rfl, by decide⟩, ⟨_, rfl, by decide⟩, ⟨_, rfl, by decide⟩, ⟨_, rfl, by decide, by decide⟩, _, rfl⟩
theorem witness_ExecutePhaseExceptionsArePrecise : fetches (poised 0xFFE 0x00EE start) ∧
    (∃ t, step (poised 0xFFE 0x00EE start) = .next t ∧ t.status = some (.error (.stackError .underflow))) ∧
    isFatal { defaultParams with unknownPolicy := .nop } (.decodeError 0x5121) = false :=
  ⟨by unfold fetches; decide, ⟨_, rfl, by decide⟩, by decide⟩
/-- LD [I],Vx at PC with I = PC + 2, inside memory. -/
def storesNext (pc op : Word) (x : Nibble) (s : State) : Prop :=
  fetches (poised pc op s) ∧ decode (poised pc op s).fetchWord = .stRegs x ∧ 1 ≤ x.toNat ∧
    (poised pc op s).i.toNat = (poised pc op s).pc.toNat + 2 ∧ (poised pc op s).i.toNat + x.toNat < 4096

/-- The highest PC with the longest store, and the shortest store at the top of memory. -/
theorem witness_SelfModifyingStoreIsSeenByTheNextFetch : storesNext 0xFEE 0xFF55 15 { start with i := 0xFF0 } ∧
    storesNext 0xFFC 0xF155 1 { start with i := 0xFFE } := by unfold storesNext fetches; decide
theorem witness_SelfJumpIdles : fetches (poised 0xFFE 0x1FFE start) ∧
    decode (poised 0xFFE 0x1FFE start).fetchWord = .jp 0xFFE ∧
    (0xFFE : Addr12).toNat = (poised 0xFFE 0x1FFE start).pc.toNat := by unfold fetches; decide
theorem witness_SetKeyWritesOneKey : (0 : Nibble) ≠ 15 := by decide

end Sys2Proof.Tests
end

section
/-! SUPPORT. The frame of each update of the state: the pieces it may change. -/

namespace Sys2Proof.Machine

/-- A piece that differs afterwards is one of those that may change. -/
theorem unchangedExcept.mem_of_changed {w : Set Piece} {s t : State} (h : unchangedExcept w s t) {p : Piece}
    (hp : ¬ sameAt s t p) : p ∈ w := by_contra fun hw => hp (h p hw)

theorem unchangedExcept.refl (s : State) : unchangedExcept ∅ s s := fun p _ => by cases p <;> rfl

theorem setV_unchanged (s : State) (x : Nibble) (b : Byte) : unchangedExcept {.v x} s (s.setV x b) := by
  intro p hp
  cases p with
  | v r =>
    have hr : r ≠ x := fun e => hp (congrArg Piece.v e)
    simp [sameAt, hr]
  | _ => rfl

theorem setI_unchanged (s : State) (w : Word) : unchangedExcept {.i} s (s.setI w) := by
  intro p hp
  cases p with
  | i => exact absurd rfl hp
  | _ => rfl

theorem setPc_unchanged (s : State) (w : Word) : unchangedExcept {.pc} s (s.setPc w) := by
  intro p hp
  cases p with
  | pc => exact absurd rfl hp
  | _ => rfl

theorem setDt_unchanged (s : State) (b : Byte) : unchangedExcept {.dt} s (s.setDt b) := by
  intro p hp
  cases p with
  | dt => exact absurd rfl hp
  | _ => rfl

theorem setSt_unchanged (s : State) (b : Byte) : unchangedExcept {.st} s (s.setSt b) := by
  intro p hp
  cases p with
  | st => exact absurd rfl hp
  | _ => rfl

theorem setDisp_unchanged (s : State) (d : Display) :
    unchangedExcept {p | ∃ row col, p = .pixel row col} s (s.setDisp d) := by
  intro p hp
  cases p with
  | pixel row col => exact absurd ⟨row, col, rfl⟩ hp
  | _ => rfl

theorem nextDraw_unchanged (s : State) : unchangedExcept {.draws} s s.nextDraw := by
  intro p hp
  cases p with
  | draws => exact absurd rfl hp
  | _ => rfl

theorem setMaskedDraw_unchanged (s : State) (x : Nibble) (kk r : Byte) :
    unchangedExcept {.v x} s (s.setMaskedDraw x kk r) := setV_unchanged s x _

theorem setFlagThenV_unchanged (s : State) (x : Nibble) (f b : Byte) :
    unchangedExcept ({.v vf} ∪ {.v x}) s (s.setFlagThenV x f b) :=
  (setV_unchanged s vf f).trans (setV_unchanged _ x b)

theorem applyDrawing_unchanged (s : State) (g : Drawing) :
    unchangedExcept ({p | ∃ row col, p = .pixel row col} ∪ {.v vf}) s (s.applyDrawing g) :=
  (setDisp_unchanged s g.disp).trans (setV_unchanged _ vf _)

theorem push_unchanged (s : State) (w : Word) (h : s.sp.toNat < 16) :
    unchangedExcept {.stack ⟨s.sp.toNat, h⟩, .sp} s (s.push w h) := by
  intro p hp
  cases p with
  | stack k =>
    have hk : s.sp.toNat ≠ k.val := fun e => hp (Or.inl (congrArg Piece.stack (Fin.ext e.symm)))
    simp [sameAt, hk]
  | sp => exact absurd (Or.inr rfl) hp
  | _ => rfl

theorem popToPc_unchanged (s : State) (h : s.sp.toNat - 1 < 16) :
    unchangedExcept {.sp, .pc} s (s.popToPc h) := by
  intro p hp
  cases p with
  | sp => exact absurd (Or.inl rfl) hp
  | pc => exact absurd (Or.inr rfl) hp
  | _ => rfl

theorem skipIf_unchanged (s : State) (c : Bool) : unchangedExcept {p | c = true ∧ p = .pc} s (s.skipIf c) := by
  cases c with
  | false => exact (unchangedExcept.refl s).mono (Set.empty_subset _)
  | true => exact (setPc_unchanged s _).mono fun _ hp => ⟨rfl, hp⟩

/-- A list of bytes written from V[0] up changes one register for each byte (43_index_memory.md R205). -/
theorem setRegsFrom_zero_unchanged (s : State) (bs : List Byte) (hlen : bs.length ≤ 16) :
    unchangedExcept {p | ∃ r : Nibble, r.toNat < bs.length ∧ p = .v r} s (s.setRegsFrom 0 bs) := by
  intro p hp
  cases p with
  | v r =>
    have hr : bs.length ≤ r.toNat := Nat.le_of_not_lt fun hlt => hp ⟨r, hlt, rfl⟩
    simp [sameAt, State.setRegsFrom_readV s 0 bs r (by omega), hr]
  | _ => simp [sameAt]

/-- Blocking changes MODE and the status only. -/
theorem block_unchanged (s : State) : unchangedExcept {.mode, .status} s s.block := by
  intro p hp
  cases p with
  | mode => exact absurd (Or.inl rfl) hp
  | status => exact absurd (Or.inr rfl) hp
  | _ => rfl

/-- Taking an exception, fatal or not, changes MODE, ERR and the status only (60_exceptions.md R261). -/
theorem raise_unchanged (s : State) (e : CoreError) : unchangedExcept {.mode, .err, .status} s (s.raise e) := by
  intro p hp
  cases p with
  | mode | err | status => simp at hp
  | _ => simp [sameAt]

end Sys2Proof.Machine
end

section
/-! SUPPORT. What executing an instruction can do, said once: it makes its update and completes, or blocks, or takes
an exception it can raise. Every claim about all instructions is derived from `exec_ends`. -/

namespace Sys2Proof.Machine

/-- The low 4 bits of a register value as a number (92_eei_decisions.md D13). -/
theorem lowNibble_toNat (b : Byte) : (lowNibble b).toNat = b.toNat % 16 := by simp [lowNibble]

/-- CALL below a full stack (41_control_flow.md R153). -/
theorem exec_call_of_lt {s : State} (nnn : Addr12) (h : s.sp.toNat < 16) :
    exec (.call nnn) s = .next ((s.push s.pc h).setPc (zextAddr nnn)).complete := dif_pos h

/-- RET above an empty stack (41_control_flow.md R154). -/
theorem exec_ret_of_pos {s : State} (h0 : s.sp ≠ 0) (h : s.sp.toNat - 1 < 16) :
    exec .ret s = .next (s.popToPc h).complete := by
  simp only [exec, execRet, if_neg h0, dif_pos h]

/-- RET with the entry it pops named: PC becomes that entry and SP is one less (41_control_flow.md R154). -/
theorem exec_ret_of_sp {s : State} (k : Fin 16) (h : s.sp.toNat = k.val + 1) :
    exec .ret s = .next { s with sp := s.sp - 1, pc := s.stack[k] }.complete := by
  have h0 : s.sp ≠ 0 := fun e => by simp [e] at h
  rw [exec_ret_of_pos h0 (by omega)]
  simp [State.popToPc, h]

/-- `InstrUpdate s i u`: from `s`, instruction `i` makes the update `u` before it completes. Instructions that write
a register are grouped by how they write it, whatever the value. -/
inductive InstrUpdate (s : State) : Instr → State → Prop
  | cls : InstrUpdate s .cls (s.setDisp blankDisplay)
  | ret (h0 : s.sp ≠ 0) (h : s.sp.toNat - 1 < 16) : InstrUpdate s .ret (s.popToPc h)
  | sys (nnn : Addr12) : InstrUpdate s (.sys nnn) s
  | jp (nnn : Addr12) : InstrUpdate s (.jp nnn) (s.setPc (zextAddr nnn))
  | call (nnn : Addr12) (h : s.sp.toNat < 16) : InstrUpdate s (.call nnn) ((s.push s.pc h).setPc (zextAddr nnn))
  | jpV0 (nnn : Addr12) : InstrUpdate s (.jpV0 nnn) (s.setPc (zextAddr nnn + zextByte (s.readV 0)))
  | skip {i : Instr} {c : Bool} (hc : skipCondition s i = some c) : InstrUpdate s i (s.skipIf c)
  | writeV {i : Instr} (x : Nibble) (b : Byte) (hx : mayWriteV i x) : InstrUpdate s i (s.setV x b)
  | writeFlagThenV {i : Instr} (x : Nibble) (f b : Byte) (hf : mayWriteV i vf) (hx : mayWriteV i x) :
      InstrUpdate s i (s.setFlagThenV x f b)
  | rnd (x : Nibble) (kk r : Byte) : InstrUpdate s (.rnd x kk) (s.nextDraw.setMaskedDraw x kk r)
  | drw (x y n : Nibble) (g : Drawing) : InstrUpdate s (.drw x y n) (s.applyDrawing g)
  | ldI (nnn : Addr12) : InstrUpdate s (.ldI nnn) (s.setI (zextAddr nnn))
  | addI (x : Nibble) : InstrUpdate s (.addI x) (s.setI (s.i + zextByte (s.readV x)))
  | ldF (x : Nibble) : InstrUpdate s (.ldF x) (s.setI (glyphAddr (lowNibble (s.readV x))))
  | ldDtVx (x : Nibble) : InstrUpdate s (.ldDtVx x) (s.setDt (s.readV x))
  | ldStVx (x : Nibble) : InstrUpdate s (.ldStVx x) (s.setSt (s.readV x))
  | store {i : Instr} (base : Nat) (bs : List Byte) (hi : (∃ x, i = .ldB x) ∨ ∃ x, i = .stRegs x)
      (hb : bs.length = 0 ∨ base + bs.length ≤ 4096) : InstrUpdate s i (s.storeBytes base bs)
  | ldRegs (x : Nibble) (bs : List Byte) (hbs : bs.length = x.toNat + 1) :
      InstrUpdate s (.ldRegs x) (s.setRegsFrom 0 bs)

/-- The three ways an execution that answers a next state ends (40_step_cycle.md R131 actions 6 and 7). -/
inductive ExecEnds (s : State) : Instr → State → Prop
  | completes {i : Instr} {u : State} (hu : InstrUpdate s i u) : ExecEnds s i u.complete
  | blocks (x : Nibble) : ExecEnds s (.ldVxK x) (s.setPc (s.pc - 2)).block
  | raises {i : Instr} {e : CoreError} (he : mayRaise i e) : ExecEnds s i (s.raise e)

/-- A checked store writes its range or raises MemoryFault (20_memory.md R67). -/
theorem storeChecked_ends {i : Instr} (hi : (∃ x, i = .ldB x) ∨ ∃ x, i = .stRegs x) (s : State) (base : Nat)
    (bs : List Byte) : ExecEnds s i (s.storeChecked base bs) := by
  rcases storeChecked_cases s base bs with ⟨hb, h⟩ | ⟨-, h⟩ <;> rw [h]
  · exact .completes (.store base bs hi hb)
  · rcases hi with ⟨x, rfl⟩ | ⟨x, rfl⟩ <;> exact .raises ⟨_, rfl⟩

/-- Every next state of an execution, once for all instructions. -/
theorem exec_ends {i : Instr} {s t : State} (h : exec i s = .next t) : ExecEnds s i t := by
  cases i with
  | cls => cases h; exact .completes .cls
  | ret =>
    simp only [exec, execRet] at h
    split at h
    · cases h; exact .raises rfl
    · next h0 =>
      split at h
      · next hsp => cases h; exact .completes (.ret h0 hsp)
      · cases h
  | sys nnn => cases h; exact .completes (.sys nnn)
  | jp nnn => cases h; exact .completes (.jp nnn)
  | call nnn =>
    simp only [exec, execCall] at h
    split at h
    · next hsp => cases h; exact .completes (.call nnn hsp)
    · split at h
      · cases h; exact .raises rfl
      · cases h
  | seImm x kk | sneImm x kk => cases h; exact .completes (.skip rfl)
  | seReg x y | sneReg x y => cases h; exact .completes (.skip rfl)
  | skp x | sknp x =>
    cases h; exact .completes (.skip (by simp [skipCondition, State.keyDown, lowNibble_toNat]))
  | ldImm x kk | addImm x kk => cases h; exact .completes (.writeV x _ rfl)
  | ldReg x y | or x y | and x y | xor x y => cases h; exact .completes (.writeV x _ rfl)
  | ldVxDt x => cases h; exact .completes (.writeV x _ rfl)
  | addReg x y | sub x y | shr x y | subn x y | shl x y =>
    cases h; exact .completes (.writeFlagThenV x _ _ (.inr rfl) (.inl rfl))
  | ldI nnn => cases h; exact .completes (.ldI nnn)
  | jpV0 nnn => cases h; exact .completes (.jpV0 nnn)
  | rnd x kk => cases h; exact .completes (.rnd x kk _)
  | drw x y n =>
    simp only [exec, execDrw] at h
    split at h
    · cases h; exact .raises ⟨_, rfl⟩
    · cases h; exact .completes (.drw x y n _)
  | ldVxK x =>
    simp only [exec, execLdVxK] at h
    split at h
    · cases h; exact .completes (.writeV x _ rfl)
    · cases h; exact .blocks x
  | ldDtVx x => cases h; exact .completes (.ldDtVx x)
  | ldStVx x => cases h; exact .completes (.ldStVx x)
  | addI x => cases h; exact .completes (.addI x)
  | ldF x => cases h; exact .completes (.ldF x)
  | ldB x => cases h; exact storeChecked_ends (.inl ⟨x, rfl⟩) s _ _
  | stRegs x => cases h; exact storeChecked_ends (.inr ⟨x, rfl⟩) s _ _
  | ldRegs x =>
    simp only [exec, execLdRegs] at h
    split at h
    · cases h; exact .raises ⟨_, rfl⟩
    · cases h; exact .completes (.ldRegs x _ (by simp))
  | unknown raw => cases h; exact .raises rfl

/-- The pieces the update of an instruction may change: a clause of `OnlyDedicatedInstructionsWriteEachPiece` for each
piece, and the table of register writers for a register. MODE, ERR and the status belong to the ending. -/
def mayWrite (s : State) (i : Instr) : Piece → Prop
  | .v r => mayWriteV i r
  | .i => (∃ nnn, i = .ldI nnn) ∨ (∃ x, i = .addI x) ∨ ∃ x, i = .ldF x
  | .pc => (∃ nnn, i = .jp nnn) ∨ (∃ nnn, i = .call nnn) ∨ i = .ret ∨ (∃ nnn, i = .jpV0 nnn) ∨
      skipCondition s i = some true
  | .sp => (∃ nnn, i = .call nnn) ∨ i = .ret
  | .stack _ => ∃ nnn, i = .call nnn
  | .dt => ∃ x, i = .ldDtVx x
  | .st => ∃ x, i = .ldStVx x
  | .mem _ => (∃ x, i = .ldB x) ∨ ∃ x, i = .stRegs x
  | .pixel _ _ => i = .cls ∨ ∃ x y n, i = .drw x y n
  | .draws => ∃ x kk, i = .rnd x kk
  | .keys | .kprev | .mode | .err | .loaded | .status | .params => False

/-- An update changes at most the pieces its instruction may write. -/
theorem InstrUpdate.frame {s u : State} {i : Instr} (hu : InstrUpdate s i u) :
    unchangedExcept {p | mayWrite s i p} s u := by
  cases hu with
  | cls => exact (setDisp_unchanged s _).mono (by rintro _ ⟨row, col, rfl⟩; exact .inl rfl)
  | ret h0 h => exact (popToPc_unchanged s h).mono (by rintro _ (rfl | rfl) <;> simp [mayWrite])
  | sys nnn => exact (unchangedExcept.refl s).mono (Set.empty_subset _)
  | jp nnn => exact (setPc_unchanged s _).mono (by rintro _ rfl; exact .inl ⟨nnn, rfl⟩)
  | call nnn h =>
    refine ((push_unchanged s s.pc h).trans (setPc_unchanged _ (zextAddr nnn))).mono ?_
    rintro _ ((rfl | rfl) | rfl) <;> simp [mayWrite]
  | jpV0 nnn => exact (setPc_unchanged s _).mono (by rintro _ rfl; simp [mayWrite])
  | skip hc => exact (skipIf_unchanged s _).mono (by rintro _ ⟨rfl, rfl⟩; simp [mayWrite, hc])
  | writeV x b hx => exact (setV_unchanged s x b).mono (by rintro _ rfl; exact hx)
  | writeFlagThenV x f b hf hx =>
    exact (setFlagThenV_unchanged s x f b).mono (by rintro _ (rfl | rfl); exacts [hf, hx])
  | rnd x kk r =>
    refine ((nextDraw_unchanged s).trans (setMaskedDraw_unchanged _ x kk r)).mono ?_
    rintro _ (rfl | rfl)
    · exact ⟨x, kk, rfl⟩
    · exact (rfl : x = x)
  | drw x y n g =>
    refine (applyDrawing_unchanged s g).mono ?_
    rintro _ (⟨row, col, rfl⟩ | rfl)
    · exact .inr ⟨x, y, n, rfl⟩
    · exact (rfl : vf = 15)
  | ldI nnn => exact (setI_unchanged s _).mono (by rintro _ rfl; exact .inl ⟨nnn, rfl⟩)
  | addI x => exact (setI_unchanged s _).mono (by rintro _ rfl; exact .inr (.inl ⟨x, rfl⟩))
  | ldF x => exact (setI_unchanged s _).mono (by rintro _ rfl; exact .inr (.inr ⟨x, rfl⟩))
  | ldDtVx x => exact (setDt_unchanged s _).mono (by rintro _ rfl; exact ⟨x, rfl⟩)
  | ldStVx x => exact (setSt_unchanged s _).mono (by rintro _ rfl; exact ⟨x, rfl⟩)
  | store base bs hi hb => exact (storeBytes_unchanged s base bs).mono (by rintro _ ⟨k, -, rfl⟩; exact hi)
  | ldRegs x bs hbs =>
    have := x.isLt
    refine (setRegsFrom_zero_unchanged s bs (by omega)).mono ?_
    rintro _ ⟨r, hr, rfl⟩
    exact (show r.toNat ≤ x.toNat by omega)

/-- What may differ after an execution: what the instruction may write, PC if it blocked, and MODE, ERR and the
status. -/
theorem exec_frame {i : Instr} {s t : State} (h : exec i s = .next t) :
    unchangedExcept ({p | mayWrite s i p} ∪ {p | p = .pc ∧ (∃ x, i = .ldVxK x) ∧ t.status = some .blocked} ∪
      {.mode, .err, .status}) s t := by
  cases exec_ends h with
  | completes hu =>
    refine (hu.frame.trans (complete_unchanged _)).mono ?_
    rintro p (hp | rfl | rfl)
    · exact .inl (.inl hp)
    · simp
    · simp
  | blocks x =>
    refine ((setPc_unchanged s _).trans (block_unchanged _)).mono ?_
    rintro _ (rfl | rfl | rfl) <;> simp
  | raises he => exact (raise_unchanged s _).mono Set.subset_union_right

/-- MODE and the status after an execution (40_step_cycle.md R131, R137). -/
theorem exec_mode_status {i : Instr} {s t : State} (h : exec i s = .next t) :
    (t.mode = .running ∧ t.status = some .ok) ∨ (t.mode = .blocked ∧ t.status = some .blocked ∧ ∃ x, i = .ldVxK x) ∨
      ∃ e, mayRaise i e ∧ t.status = some (.error e) ∧
        t.mode = if isFatal s.params e = true then .halted else .running := by
  cases exec_ends h with
  | completes hu => exact .inl ⟨rfl, rfl⟩
  | blocks x => exact .inr (.inl ⟨rfl, rfl, x, rfl⟩)
  | raises he => exact .inr (.inr ⟨_, he, by simp, by simp⟩)

/-- A changed ERR is the fatal exception that was taken (60_exceptions.md R259). -/
theorem exec_err_changed {i : Instr} {s t : State} (h : exec i s = .next t) (hne : t.err ≠ s.err) :
    ∃ e, mayRaise i e ∧ isFatal s.params e = true ∧ t.status = some (.error e) ∧ t.err = some e := by
  cases exec_ends h with
  | completes hu => exact absurd (hu.frame .err id) hne
  | blocks x => exact absurd rfl hne
  | @raises _ e he =>
    by_cases hf : isFatal s.params e = true
    · exact ⟨e, he, hf, by simp, by simp [hf]⟩
    · exact absurd (by simp [hf]) hne

/-- With SP at most 16 every instruction answers a next state: the only stop is CALL or RET with SP above 16. -/
theorem exec_answers (i : Instr) {s : State} (hsp : s.sp.toNat ≤ 16) : ∃ t, exec i s = .next t := by
  cases i with
  | ret =>
    by_cases h0 : s.sp = 0
    · exact ⟨_, if_pos h0⟩
    · exact ⟨_, exec_ret_of_pos h0 (by omega)⟩
  | call nnn =>
    by_cases h : s.sp.toNat < 16
    · exact ⟨_, exec_call_of_lt nnn h⟩
    · have h16 : s.sp = 16 := by bv_omega
      exact ⟨_, (dif_neg h).trans (if_pos h16)⟩
  | drw x y n => simp only [exec, execDrw]; split <;> exact ⟨_, rfl⟩
  | ldVxK x => simp only [exec, execLdVxK]; split <;> exact ⟨_, rfl⟩
  | ldRegs x => simp only [exec, execLdRegs]; split <;> exact ⟨_, rfl⟩
  | _ => exact ⟨_, rfl⟩

end Sys2Proof.Machine
end

section
/-! SUPPORT. The machine invariant is kept by every update, by each way an instruction ends, and by the Host's moves. -/

namespace Sys2Proof.Machine

/-- `nnn` zero-extended keeps its value (30_encoding.md R99). -/
theorem zextAddr_toNat (nnn : Addr12) : (zextAddr nnn).toNat = nnn.toNat := by
  have := nnn.isLt
  simp only [zextAddr, BitVec.toNat_setWidth]; omega

theorem zextByte_toNat (b : Byte) : (zextByte b).toNat = b.toNat := by
  have := b.isLt
  simp only [zextByte, BitVec.toNat_setWidth]; omega

/-- The target of JP V0 is the exact sum: it fits in 16 bits (41_control_flow.md R155). -/
theorem jpV0Target_toNat (nnn : Addr12) (b : Byte) : (zextAddr nnn + zextByte b).toNat = nnn.toNat + b.toNat := by
  have := nnn.isLt; have := b.isLt
  rw [BitVec.toNat_add, zextAddr_toNat, zextByte_toNat]; omega

/-- PC plus 2 is exact away from the top of the 16 bits (40_step_cycle.md R132). -/
theorem pc_add_two_toNat {w : Word} (h : w.toNat ≤ 0x1000) : (w + 2).toNat = w.toNat + 2 := by bv_omega

theorem pred_toNat {b : Byte} (h : b ≠ 0) : (b - 1).toNat = b.toNat - 1 := by bv_omega

/-- The part of the invariant that an instruction's update can touch, in a machine with a program loaded: memory, SP,
PC and the return addresses. -/
structure ControlInv (s : State) : Prop where
  memory : Memory.wf s.params s.mem = true
  stackPointer : s.sp.toNat ≤ 16
  pcBound : s.pc.toNat ≤ 0x10FE
  returnAddresses : ∀ k : Fin 16, k.val < s.sp.toNat → (s.stack[k]).toNat ≤ 0x1000

theorem MachineInv.controlInv {s : State} (hs : MachineInv s) (hl : s.loaded = true) : ControlInv s :=
  ⟨hs.memory, hs.stackPointer, hs.pcBound hl, hs.returnAddresses⟩

/-- ERR is NONE in every mode but HALTED (10_state.md R36). -/
theorem MachineInv.err_eq_none {s : State} (hs : MachineInv s) (hm : s.mode ≠ .halted) : s.err = none :=
  hs.errorIffHalted.2 hm

/-- Where MODE is not HALTED and ERR is NONE, the status does not matter. -/
theorem ControlInv.machineInv {s : State} (hc : ControlInv s) (hm : s.mode ≠ .halted) (he : s.err = none) :
    MachineInv s where
  memory := hc.memory
  stackPointer := hc.stackPointer
  errorIffHalted := iff_of_true he hm
  haltedStatus h := absurd h hm
  pcBound _ := hc.pcBound
  returnAddresses := hc.returnAddresses

/-- An update that keeps memory and the stack keeps the control part if PC stays bounded. -/
theorem ControlInv.of_kept {s t : State} (hc : ControlInv s)
    (h : t.mem = s.mem ∧ t.params = s.params ∧ t.sp = s.sp ∧ t.stack = s.stack) (hpc : t.pc.toNat ≤ 0x10FE) :
    ControlInv t := by
  obtain ⟨hmem, hparams, hsp, hstack⟩ := h
  refine ⟨?_, ?_, hpc, ?_⟩
  · rw [hmem, hparams]; exact hc.memory
  · rw [hsp]; exact hc.stackPointer
  · rw [hsp, hstack]; exact hc.returnAddresses

/-- A push of an address of at most 0x1000 keeps the control part (10_state.md R27, R40). -/
theorem push_keeps_controlInv {s : State} (hc : ControlInv s) {w : Word} (hw : w.toNat ≤ 0x1000)
    (h : s.sp.toNat < 16) : ControlInv (s.push w h) := by
  have hsp : (s.sp + 1).toNat = s.sp.toNat + 1 := by bv_omega
  refine ⟨hc.memory, ?_, hc.pcBound, fun k hk => ?_⟩
  · rw [State.push_sp, hsp]; omega
  · rw [State.push_sp, hsp] at hk
    by_cases hks : k.val = s.sp.toNat
    · simpa [← hks] using hw
    · have := hc.returnAddresses k (by omega)
      simpa [Ne.symm hks] using this

/-- A pop makes PC a return address in use, so it keeps the control part (10_state.md R27, R40). -/
theorem popToPc_keeps_controlInv {s : State} (hc : ControlInv s) (h0 : s.sp ≠ 0) (h : s.sp.toNat - 1 < 16) :
    ControlInv (s.popToPc h) := by
  have hpos : s.sp.toNat ≠ 0 := fun e => h0 (BitVec.eq_of_toNat_eq e)
  have hsp := hc.stackPointer
  refine ⟨hc.memory, ?_, ?_, fun k hk => ?_⟩
  · rw [State.popToPc_sp, pred_toNat h0]; omega
  · have := hc.returnAddresses ⟨s.sp.toNat - 1, h⟩ (Nat.sub_one_lt hpos)
    exact Nat.le_trans this (by decide)
  · rw [State.popToPc_sp, pred_toNat h0] at hk
    exact hc.returnAddresses k (by omega)

/-- Every update keeps the control part, from a PC that a fetch advance can have left (10_state.md R27). -/
theorem InstrUpdate.keeps_controlInv {s u : State} {i : Instr} (hu : InstrUpdate s i u) (hc : ControlInv s)
    (hpc : s.pc.toNat ≤ 0x1000) : ControlInv u := by
  cases hu with
  | ret h0 h => exact popToPc_keeps_controlInv hc h0 h
  | call nnn h =>
    refine (push_keeps_controlInv hc hpc h).of_kept ⟨rfl, rfl, rfl, rfl⟩ ?_
    have := nnn.isLt
    rw [State.setPc_pc, zextAddr_toNat]; omega
  | jp nnn =>
    refine hc.of_kept ⟨rfl, rfl, rfl, rfl⟩ ?_
    have := nnn.isLt
    rw [State.setPc_pc, zextAddr_toNat]; omega
  | jpV0 nnn =>
    refine hc.of_kept ⟨rfl, rfl, rfl, rfl⟩ ?_
    have := nnn.isLt; have := (s.readV 0).isLt
    rw [State.setPc_pc, jpV0Target_toNat]; omega
  | @skip _ c hcond =>
    refine hc.of_kept (by simp) ?_
    rw [State.skipIf_pc]
    split
    · rw [pc_add_two_toNat hpc]; omega
    · exact hc.pcBound
  | store base bs hi hb =>
    refine ⟨?_, by simpa using hc.stackPointer, by simpa using hc.pcBound, by simpa using hc.returnAddresses⟩
    rw [State.storeBytes_params]
    rcases hb with hb | hb
    · rw [List.eq_nil_of_length_eq_zero hb]; exact hc.memory
    · exact State.storeBytes_wf s base bs hb hc.memory
  | ldRegs x bs hbs => exact hc.of_kept (by simp) (by simpa using hc.pcBound)
  | cls | sys | writeV | writeFlagThenV | rnd | drw | ldI | addI | ldF | ldDtVx | ldStVx =>
    exact hc.of_kept ⟨rfl, rfl, rfl, rfl⟩ hc.pcBound

/-- Taking an exception keeps the invariant: a fatal one is recorded in ERR and the status (60_exceptions.md R259). -/
theorem raise_keeps_inv {s : State} (hc : ControlInv s) (herr : s.err = none) (e : CoreError) :
    MachineInv (s.raise e) where
  memory := by simpa using hc.memory
  stackPointer := by simpa using hc.stackPointer
  errorIffHalted := by cases hf : isFatal s.params e <;> simp [hf, herr]
  haltedStatus := by cases hf : isFatal s.params e <;> simp [hf]
  pcBound _ := by simpa using hc.pcBound
  returnAddresses := by simpa using hc.returnAddresses

/-- Executing an instruction keeps the invariant, from a PC that a fetch advance can have left. -/
theorem exec_keeps_inv {i : Instr} {s t : State} (h : exec i s = .next t) (hc : ControlInv s) (herr : s.err = none)
    (hlo : 2 ≤ s.pc.toNat) (hhi : s.pc.toNat ≤ 0x1000) : MachineInv t := by
  cases exec_ends h with
  | @completes _ u hu =>
    have hcu := hu.keeps_controlInv hc hhi
    have hct : ControlInv u.complete := hcu.of_kept ⟨rfl, rfl, rfl, rfl⟩ hcu.pcBound
    exact hct.machineInv (by simp) ((hu.frame .err id).trans herr)
  | blocks x =>
    have hpc : (s.pc - 2).toNat ≤ 0x10FE := by bv_omega
    have hct : ControlInv (s.setPc (s.pc - 2)).block := hc.of_kept ⟨rfl, rfl, rfl, rfl⟩ hpc
    exact hct.machineInv (by simp) herr
  | raises he => exact raise_keeps_inv hc herr _

/-- The key latch is no part of the invariant. -/
theorem latchKeys_keeps_inv {s : State} (hs : MachineInv s) : MachineInv s.latchKeys :=
  ⟨hs.memory, hs.stackPointer, hs.errorIffHalted, hs.haltedStatus, hs.pcBound, hs.returnAddresses⟩

/-- The timers and the keys are no part of it either. -/
theorem setDt_keeps_inv {s : State} (hs : MachineInv s) (b : Byte) : MachineInv (s.setDt b) :=
  ⟨hs.memory, hs.stackPointer, hs.errorIffHalted, hs.haltedStatus, hs.pcBound, hs.returnAddresses⟩

theorem setSt_keeps_inv {s : State} (hs : MachineInv s) (b : Byte) : MachineInv (s.setSt b) :=
  ⟨hs.memory, hs.stackPointer, hs.errorIffHalted, hs.haltedStatus, hs.pcBound, hs.returnAddresses⟩

theorem hostSetKey_keeps_inv {s : State} (hs : MachineInv s) (k : Nibble) (down : Bool) :
    MachineInv (hostSetKey k down s) :=
  ⟨hs.memory, hs.stackPointer, hs.errorIffHalted, hs.haltedStatus, hs.pcBound, hs.returnAddresses⟩

/-- A halted machine whose status is its stored error reports what it already holds. -/
theorem reportHalted_eq_self {s : State} (h : s.status = s.err.map Status.error) : s.reportHalted = s := by
  unfold State.reportHalted
  split
  · next e he =>
    rw [he] at h
    cases s; cases h; rfl
  · rfl

/-- The Load of a ROM that fits leaves a running machine at 0x200 with an empty stack (70_reset_and_hazards.md R295). -/
theorem loadRom_keeps_inv {s : State} (hs : MachineInv s) (rom : List Byte)
    (hfit : programBase + rom.length ≤ memSize) : MachineInv (loadRom rom s) := by
  have hc : ControlInv (loadRom rom s) := by
    refine ⟨?_, by simp [loadRom], by simp [loadRom, programBase], fun k hk => absurd hk (Nat.not_lt_zero _)⟩
    have := State.storeBytes_wf s programBase rom hfit hs.memory
    simpa [loadRom] using this
  exact hc.machineInv (by simp [loadRom]) rfl

/-- Load of any bytes: one that does not fit changes nothing. -/
theorem hostLoad_keeps_inv {s : State} (hs : MachineInv s) (rom : List Byte) : MachineInv (hostLoad rom s).2 := by
  unfold hostLoad
  split
  · next hfit =>
    have hlen : rom.length + programBase ≤ memSize := by simpa [romFits] using hfit
    exact loadRom_keeps_inv hs rom (by omega)
  · exact hs

/-- Once a program is loaded, a step with a legal SP answers a next state: every instruction does, and the fetch fault
is an exception that is taken (40_step_cycle.md R137). -/
theorem step_answers {s : State} (hsp : s.sp.toNat ≤ 16) (hl : s.loaded = true) : ∃ t, step s = .next t := by
  unfold step
  rw [if_neg (by simp [hl])]
  split
  · exact ⟨_, rfl⟩
  · split
    · exact ⟨_, rfl⟩
    · obtain ⟨u, hu⟩ := exec_answers (decode s.fetchWord) (s := s.fetchAdvance) hsp
      exact ⟨u.latchKeys, by rw [runWord, hu]⟩

end Sys2Proof.Machine
end

section
/-! The statements about the machine invariant. -/

namespace Sys2Proof.Machine

/-- The state after reset meets the invariant; no program is loaded, so its PC is not constrained. -/
theorem resetWith_meets_inv (p : Params) (draws : Nat) : MachineInv (State.resetWith p draws) where
  memory := Memory.wf_nil p
  stackPointer := Nat.zero_le 16
  errorIffHalted := iff_of_true rfl (by simp [State.resetWith])
  haltedStatus h := by simp [State.resetWith] at h
  pcBound h := by simp [State.resetWith] at h
  returnAddresses _ hk := absurd hk (Nat.not_lt_zero _)

/-- Settles O38: the reset values meet each clause. -/
theorem resetMeetsTheInvariant : Obligations.ResetMeetsTheInvariant :=
  ⟨resetWith_meets_inv defaultParams 0, resetWith_meets_inv⟩

/-- Settles O39, by the cases of a step: a halted machine's report changes nothing, the fetch fault is an exception
taken, and an executed instruction starts from the advanced PC, from 2 to 0x1000. -/
theorem stepKeepsTheInvariant : Obligations.StepKeepsTheInvariant := by
  intro s t hs h
  obtain ⟨hl, ⟨hm, rfl⟩ | ⟨hm, -, rfl⟩ | ⟨hm, hpc, u, hu, rfl⟩⟩ := step_cases h
  · rwa [reportHalted_eq_self (hs.haltedStatus hm)]
  · exact latchKeys_keeps_inv (raise_keeps_inv (hs.controlInv hl) (hs.err_eq_none hm) _)
  · have hadv : s.fetchAdvance.pc.toNat = s.pc.toNat + 2 := pc_add_two_toNat (by omega)
    have hc : ControlInv s.fetchAdvance := (hs.controlInv hl).of_kept ⟨rfl, rfl, rfl, rfl⟩ (by omega)
    exact latchKeys_keeps_inv (exec_keeps_inv hu hc (hs.err_eq_none hm) (by omega) (by omega))

/-- Settles O40: Reset and Load set what the invariant speaks of, and the other moves do not touch it. -/
theorem hostMovesKeepTheInvariant : Obligations.HostMovesKeepTheInvariant := by
  intro m s t hm hs h
  cases m with
  | step => exact absurd rfl hm
  | reset => cases h; exact resetWith_meets_inv _ _
  | load rom =>
    obtain rfl : (hostLoad rom s).2 = t := Host.Outcome.next.inj h
    exact hostLoad_keeps_inv hs rom
  | setKey k down => cases h; exact hostSetKey_keeps_inv hs k down
  | timerWrite timer b =>
    cases timer with
    | dt => cases h; exact setDt_keeps_inv hs b
    | st => cases h; exact setSt_keeps_inv hs b
  | timerTick => cases h; exact setSt_keeps_inv (setDt_keeps_inv hs _) _

/-- The invariant holds along every run: it holds at construction and every move keeps it. -/
theorem Reachable.machineInv {s : State} (hr : Reachable s) : MachineInv s := by
  induction hr with
  | constructed p draws => exact resetWith_meets_inv p draws
  | @moved m s t _ hm ih =>
    by_cases hstep : m = .step
    · subst hstep; exact stepKeepsTheInvariant s t ih hm
    · exact hostMovesKeepTheInvariant m s t hstep ih hm

/-- Settles O42: the invariant along runs, and from it the legal SP that lets every loaded step answer. -/
theorem everyReachableStateMeetsTheInvariant : Obligations.EveryReachableStateMeetsTheInvariant :=
  fun _ hr => ⟨hr.machineInv, step_answers hr.machineInv.stackPointer⟩

end Sys2Proof.Machine
end

section
/-! The statements about who writes which piece of state. -/

namespace Sys2Proof.Machine

/-- Settles O43: a changed piece is one that `exec_frame` lets the instruction write; MODE, ERR and the status follow
the three ways an execution ends. -/
theorem onlyDedicatedInstructionsWriteEachPiece : Obligations.OnlyDedicatedInstructionsWriteEachPiece := by
  intro i s t h
  have hf := exec_frame h
  have hw : ∀ p, p ≠ .pc → p ∉ ({.mode, .err, .status} : Set Piece) → ¬ sameAt s t p → mayWrite s i p := by
    intro p hpc hend hp
    rcases hf.mem_of_changed hp with (hp | hp) | hp
    · exact hp
    · exact absurd hp.1 hpc
    · exact absurd hp hend
  refine ⟨⟨?keys, ?kprev, ?loaded, ?params⟩, ?pc, exec_mode_status h, exec_err_changed h, ?dt, ?st, ?i, ?pixel, ?stack,
    ?sp, ?mem, ?draws⟩
  case keys => exact hf .keys (by simp [mayWrite])
  case kprev => exact hf .kprev (by simp [mayWrite])
  case loaded => exact hf .loaded (by simp [mayWrite])
  case params => exact hf .params (by simp [mayWrite])
  case pc => exact fun hp => by simpa [mayWrite, or_assoc] using hf.mem_of_changed (p := .pc) hp
  case dt => exact hw .dt (by simp) (by simp)
  case st => exact hw .st (by simp) (by simp)
  case i => exact hw .i (by simp) (by simp)
  case pixel => exact fun row col => hw (.pixel row col) (by simp) (by simp)
  case stack => exact fun k => hw (.stack k) (by simp) (by simp)
  case sp => exact hw .sp (by simp) (by simp)
  case mem => exact fun a => hw (.mem a) (by simp) (by simp)
  case draws => exact hw .draws (by simp) (by simp)

/-- Settles O44: the register clause of `exec_frame`. -/
theorem registersAreWrittenAsTheTableSays : Obligations.RegistersAreWrittenAsTheTableSays :=
  fun i s t r h hr => by simpa [mayWrite] using (exec_frame h).mem_of_changed (p := .v r) hr

end Sys2Proof.Machine
end

section
/-! CALL then RET, and SetKey. -/

namespace Sys2Proof.Machine

/-- Settles O18: RET pops the entry CALL pushed, which no change of PC in between touches. -/
theorem callThenRetRestoresPc : Obligations.CallThenRetRestoresPc := by
  intro s nnn h
  refine ⟨_, exec_call_of_lt nnn h, fun w => ?_⟩
  have hsp : (s.sp + 1).toNat = s.sp.toNat + 1 := by bv_omega
  refine ⟨_, exec_ret_of_sp ⟨s.sp.toNat, h⟩ hsp, ?_, ?_, fun k hk => ?_⟩
  · simp
  · simp
  · simp [Ne.symm hk]

/-- Key `j` after SetKey(k, v) is `v` for `j = k` and as before else (10_state.md R53). -/
theorem hostSetKey_keyDown (k j : Nibble) (down : Bool) (s : State) :
    (hostSetKey k down s).keyDown j = if j = k then down else s.keyDown j := by
  have hj : j.toNat < 16 := j.isLt
  by_cases hjk : j = k
  · subst hjk
    cases down <;> simp [hostSetKey, State.keyDown, hj]
  · have hne : j.toNat ≠ k.toNat := fun e => hjk (BitVec.eq_of_toNat_eq e)
    cases down <;> simp [hostSetKey, State.keyDown, hj, hjk, hne]

/-- Settles O52, key by key, and piece by piece for the frame. -/
theorem setKeyWritesOneKey : Obligations.SetKeyWritesOneKey := by
  intro k down s
  refine ⟨by rw [hostSetKey_keyDown, if_pos rfl], fun j hj => by rw [hostSetKey_keyDown, if_neg hj], fun p hp => ?_⟩
  cases p with
  | keys => exact absurd rfl hp
  | _ => rfl

end Sys2Proof.Machine
end

section
/-! ST is written by LD ST,Vx and read by no instruction: every operation commutes with a change of ST. -/

namespace Sys2Proof.Machine

/-- Two outcomes that differ at most in the value of ST in the next state. -/
inductive SameUpToSt : Host.Outcome State Fault Refusal → Host.Outcome State Fault Refusal → Prop
  | next (t : State) (c : Byte) : SameUpToSt (.next t) (.next (t.setSt c))
  | fault (f : Fault) : SameUpToSt (.fault f) (.fault f)
  | refused (r : Refusal) : SameUpToSt (.refused r) (.refused r)

theorem SameUpToSt.eq_of_next {t : State} {o : Host.Outcome State Fault Refusal} (h : SameUpToSt (.next t) o) :
    ∃ c, o = .next (t.setSt c) := by cases h; exact ⟨_, rfl⟩

theorem SameUpToSt.eq_of_fault {f : Fault} {o : Host.Outcome State Fault Refusal} (h : SameUpToSt (.fault f) o) :
    o = .fault f := by cases h; rfl

theorem SameUpToSt.eq_of_refused {r : Refusal} {o : Host.Outcome State Fault Refusal}
    (h : SameUpToSt (.refused r) o) : o = .refused r := by cases h; rfl

theorem SameUpToSt.ite {c : Prop} [Decidable c] {o₁ o₂ o₁' o₂' : Host.Outcome State Fault Refusal}
    (h : c → SameUpToSt o₁ o₁') (h' : ¬c → SameUpToSt o₂ o₂') :
    SameUpToSt (if c then o₁ else o₂) (if c then o₁' else o₂') := by
  split
  · next hc => exact h hc
  · next hc => exact h' hc

theorem SameUpToSt.dite {c : Prop} [Decidable c] {o₁ o₁' : c → Host.Outcome State Fault Refusal}
    {o₂ o₂' : ¬c → Host.Outcome State Fault Refusal} (h : ∀ hc, SameUpToSt (o₁ hc) (o₁' hc))
    (h' : ∀ hc, SameUpToSt (o₂ hc) (o₂' hc)) :
    SameUpToSt (if hc : c then o₁ hc else o₂ hc) (if hc : c then o₁' hc else o₂' hc) := by
  split
  · exact h _
  · exact h' _

section
variable (s : State) (b : Byte)

theorem raise_setSt (e : CoreError) : (s.setSt b).raise e = (s.raise e).setSt b := by
  cases hf : isFatal s.params e <;> simp only [State.raise, State.setSt_params, hf] <;> rfl

theorem skipIf_setSt (c : Bool) : (s.setSt b).skipIf c = (s.skipIf c).setSt b := by cases c <;> rfl

theorem reportHalted_setSt : (s.setSt b).reportHalted = s.reportHalted.setSt b := by
  unfold State.reportHalted; simp only [State.setSt_err]; split <;> rfl

theorem storeBytes_setSt (base : Nat) (bs : List Byte) :
    (s.setSt b).storeBytes base bs = (s.storeBytes base bs).setSt b := by
  induction bs generalizing s base with
  | nil => rfl
  | cons v bs ih => exact ih (s.setByte base v) (base + 1)

theorem setRegsFrom_setSt (k : Nat) (bs : List Byte) :
    (s.setSt b).setRegsFrom k bs = (s.setRegsFrom k bs).setSt b := by
  induction bs generalizing s k with
  | nil => rfl
  | cons v bs ih => exact ih (s.setV (BitVec.ofNat 4 k) v) (k + 1)

theorem storeChecked_setSt (base : Nat) (bs : List Byte) :
    (s.setSt b).storeChecked base bs = (s.storeChecked base bs).setSt b := by
  unfold State.storeChecked
  split
  · exact raise_setSt s b _
  · rw [storeBytes_setSt]; rfl

/-- What an instruction skips on does not depend on ST, so a skip is the same up to ST. -/
theorem skip_sameUpToSt (c : Bool) :
    SameUpToSt (.next (s.skipIf c).complete) (.next ((s.setSt b).skipIf c).complete) := by
  rw [skipIf_setSt]; exact .next _ b

theorem raise_sameUpToSt (e : CoreError) : SameUpToSt (.next (s.raise e)) (.next ((s.setSt b).raise e)) := by
  rw [raise_setSt]; exact .next _ b

theorem storeChecked_sameUpToSt (base : Nat) (bs : List Byte) :
    SameUpToSt (.next (s.storeChecked base bs)) (.next ((s.setSt b).storeChecked base bs)) := by
  rw [storeChecked_setSt]; exact .next _ b

/-- Every instruction does the same up to ST (10_state.md R34). -/
theorem exec_sameUpToSt (i : Instr) : SameUpToSt (exec i s) (exec i (s.setSt b)) := by
  cases i with
  | ldStVx x => exact .next (s.setSt (s.readV x)).complete (s.readV x)
  | seImm | sneImm | seReg | sneReg | skp | sknp => exact skip_sameUpToSt s b _
  | ldB | stRegs => exact storeChecked_sameUpToSt s b _ _
  | unknown raw => exact raise_sameUpToSt s b _
  | ret =>
    exact .ite (fun _ => raise_sameUpToSt s b _) fun _ =>
      .dite (fun h => .next (s.popToPc h).complete b) fun _ => .fault _
  | call nnn =>
    exact .dite (fun h => .next ((s.push s.pc h).setPc (zextAddr nnn)).complete b) fun _ =>
      .ite (fun _ => raise_sameUpToSt s b _) fun _ => .fault _
  | drw x y n =>
    simp only [exec, execDrw, State.setSt_ea]
    split
    · exact raise_sameUpToSt s b _
    · exact .next _ b
  | ldVxK x =>
    have hkeys : (s.setSt b).newKeys = s.newKeys := rfl
    simp only [exec, execLdVxK, hkeys]
    split
    · exact .next (s.setV x _).complete b
    · exact .next (s.setPc (s.pc - 2)).block b
  | ldRegs x =>
    simp only [exec, execLdRegs, State.setSt_ea]
    split
    · exact raise_sameUpToSt s b _
    · rw [setRegsFrom_setSt]; exact .next _ b
  | _ => exact .next _ b

/-- A fetched word does the same up to ST: the fetch advance and the key latch do not touch it. -/
theorem runWord_sameUpToSt (op : Word) : SameUpToSt (runWord op s) (runWord op (s.setSt b)) := by
  have hexec : SameUpToSt (exec (decode op) s.fetchAdvance) (exec (decode op) (s.setSt b).fetchAdvance) :=
    exec_sameUpToSt s.fetchAdvance b (decode op)
  unfold runWord
  generalize exec (decode op) s.fetchAdvance = o, exec (decode op) (s.setSt b).fetchAdvance = o' at hexec ⊢
  cases hexec with
  | next t c => exact .next t.latchKeys c
  | fault f => exact .fault f
  | refused r => exact .refused r

theorem step_sameUpToSt : SameUpToSt (step s) (step (s.setSt b)) := by
  have hfetch : (s.setSt b).fetchFault = s.fetchFault := rfl
  have hword : (s.setSt b).fetchWord = s.fetchWord := rfl
  unfold step
  simp only [State.setSt_loaded, State.setSt_mode, hfetch, hword]
  split
  · exact .refused _
  · split
    · rw [reportHalted_setSt]; exact .next _ b
    · split
      · rw [raise_setSt]; exact .next _ b
      · exact runWord_sameUpToSt s b _

end

/-- Settles O45: the two steps are the same up to ST, read off for each outcome. -/
theorem soundTimerIsInvisibleToTheCore : Obligations.SoundTimerIsInvisibleToTheCore := by
  intro s b
  have hst := step_sameUpToSt s b
  refine ⟨fun t h => ?_, fun f h => ?_, fun r h => ?_⟩ <;> rw [h] at hst
  · exact hst.eq_of_next
  · exact hst.eq_of_fault
  · exact hst.eq_of_refused

end Sys2Proof.Machine
end

section
/-! The block store and the block load of registers, and the two statements about what a load or a fetch after a
store reads. -/

namespace Sys2Proof.Machine

/-- LD [I],Vx inside memory stores V[0] to V[x] from I up (43_index_memory.md R204). -/
theorem exec_stRegs_of_fits {s : State} {x : Nibble} (h : s.i.toNat + x.toNat < 4096) :
    exec (.stRegs x) s = .next (s.storeBytes s.i.toNat (s.firstRegs (x.toNat + 1))).complete := by
  have hlen : (s.firstRegs (x.toNat + 1)).length ≤ x.toNat + 1 := by simp
  rcases storeChecked_cases s s.i.toNat (s.firstRegs (x.toNat + 1)) with ⟨-, hs⟩ | ⟨⟨-, hout⟩, -⟩
  · exact congrArg Host.Outcome.next hs
  · omega

/-- LD Vx,[I] inside memory loads V[0] to V[x] from I up (43_index_memory.md R205). -/
theorem exec_ldRegs_of_fits {s : State} {x : Nibble} (h : s.i.toNat + x.toNat < 4096) :
    exec (.ldRegs x) s = .next (s.setRegsFrom 0 (s.loadBytes s.i.toNat (x.toNat + 1))).complete := by
  have hfit : rangeFault (s.ea 0) (x.toNat + 1) = none :=
    (rangeFault_eq_none_iff _ _).2 (.inr (by simp only [State.ea]; omega))
  simp only [exec, execLdRegs, hfit]
  rfl

/-- After a store of the first `n` registers, register `r` of them stands `r` bytes above the base. -/
theorem State.storeBytes_firstRegs_byteAt (s : State) (base : Nat) {n : Nat} {r : Nibble} (h : r.toNat < n) :
    (s.storeBytes base (s.firstRegs n)).byteAt (base + r.toNat) = s.readV r := by
  rw [State.storeBytes_byteAt, if_neg (by omega), Nat.add_sub_cancel_left, State.firstRegs_getElem? s n r h]
  rfl

/-- After a load of the first `n` registers, each of them is the byte `r` above the base, and the others stay. -/
theorem State.setRegsFrom_loadBytes_readV (s : State) (base : Nat) {n : Nat} (hn : n ≤ 16) (r : Nibble) :
    (s.setRegsFrom 0 (s.loadBytes base n)).readV r =
      if r.toNat < n then s.byteAt (base + r.toNat) else s.readV r := by
  rw [State.setRegsFrom_readV s 0 _ r (by simpa using hn), if_neg (Nat.not_lt_zero _), Nat.sub_zero,
    State.loadBytes_getElem?]
  split <;> rfl

/-- Memory does not depend on the registers. -/
theorem State.byteAt_with_v (s : State) (regs : Vector Byte 16) (a : Nat) :
    ({ s with v := regs } : State).byteAt a = s.byteAt a := rfl

/-- Settles O30: the store leaves I as it is, so the load reads the bytes the store has just written. -/
theorem blockLoadAfterBlockStoreRestoresRegisters : Obligations.BlockLoadAfterBlockStoreRestoresRegisters := by
  intro s x h
  have hx : x.toNat + 1 ≤ 16 := x.isLt
  refine ⟨_, exec_stRegs_of_fits h, fun regs => ⟨_, exec_ldRegs_of_fits (by simpa using h), fun r => ?_⟩⟩
  rw [State.complete_readV, State.setRegsFrom_loadBytes_readV _ _ hx]
  by_cases hr : r.toNat ≤ x.toNat
  · rw [if_pos (by omega), if_pos hr, State.byteAt_with_v, State.complete_byteAt, State.complete_i,
      State.storeBytes_i, State.storeBytes_firstRegs_byteAt s _ (by omega)]
  · rw [if_neg (by omega), if_neg hr]
    rfl

/-- The first byte of a word in memory order is its high byte (20_memory.md R62). -/
theorem wordOfBytes_toNat (hi lo : Byte) : (wordOfBytes hi lo).toNat = 256 * hi.toNat + lo.toNat := by
  have hlo : lo.toNat < 2 ^ 8 := lo.isLt
  rw [wordOfBytes, BitVec.toNat_append, ← Nat.shiftLeft_add_eq_or_of_lt hlo, Nat.shiftLeft_eq]
  omega

/-- The fetched word is the byte at PC as its high byte and the next one as its low byte (20_memory.md R62). -/
theorem State.fetchWord_toNat (s : State) :
    s.fetchWord.toNat = 256 * (s.byteAt s.pc.toNat).toNat + (s.byteAt (s.pc.toNat + 1)).toNat :=
  wordOfBytes_toNat _ _

/-- A step that fetches LD [I],Vx inside memory stores from the state with PC advanced (40_step_cycle.md R131). -/
theorem step_stRegs_of_fits {s : State} {x : Nibble} (hf : fetches s) (hdec : decode s.fetchWord = .stRegs x)
    (h : s.i.toNat + x.toNat < 4096) :
    step s = .next (s.fetchAdvance.storeBytes s.i.toNat (s.fetchAdvance.firstRegs (x.toNat + 1))).complete.latchKeys :=
  step_of_exec hf (hdec ▸ exec_stRegs_of_fits h)

/-- After a store of at least V0 and V1 from PC up, the word fetched has V0 as its high byte and V1 as its low one. -/
theorem State.fetchWord_storeBytes_firstRegs (s : State) {n : Nat} (hn : 1 < n) :
    (s.storeBytes s.pc.toNat (s.firstRegs n)).fetchWord.toNat = 256 * (s.readV 0).toNat + (s.readV 1).toNat := by
  rw [State.fetchWord_toNat, State.storeBytes_pc,
    ← State.storeBytes_firstRegs_byteAt s s.pc.toNat (r := 0) (Nat.lt_of_succ_lt hn),
    ← State.storeBytes_firstRegs_byteAt s s.pc.toNat (r := 1) hn]
  rfl

/-- Settles O50: I is the advanced PC, so the store writes the word the next step fetches. -/
theorem selfModifyingStoreIsSeenByTheNextFetch : Obligations.SelfModifyingStoreIsSeenByTheNextFetch := by
  intro s x hf hdec hx hi hfit
  have hpc : s.fetchAdvance.pc.toNat = s.pc.toNat + 2 := pc_add_two_toNat (by omega)
  have hbase : s.i.toNat = s.fetchAdvance.pc.toNat := hi.trans hpc.symm
  have hstep := step_stRegs_of_fits hf hdec hfit
  rw [hbase] at hstep
  refine ⟨_, hstep, ⟨?loaded, ?mode, ?pc⟩, ?advanced, ?word⟩
  case loaded => simpa using hf.1
  case mode => simp
  case pc => rw [State.latchKeys_pc, State.complete_pc, State.storeBytes_pc]; omega
  case advanced => rw [State.latchKeys_pc, State.complete_pc, State.storeBytes_pc, hpc]
  case word => exact State.fetchWord_storeBytes_firstRegs s.fetchAdvance (Nat.lt_succ_of_le hx)

end Sys2Proof.Machine
end

section
/-! SUPPORT. A fetched instruction seen from the state before the step: the fetch advance and the key latch are the only
changes besides its own. -/

namespace Sys2Proof.Machine

/-- A piece that holds what it held need not be listed among those that may change. -/
theorem unchangedExcept.of_same {w w' : Set Piece} {s t : State} {p : Piece} (h : unchangedExcept w s t)
    (hp : sameAt s t p) (hw : w ⊆ insert p w') : unchangedExcept w' s t := by
  intro q hq
  by_cases hqp : q = p
  · exact hqp ▸ hp
  · exact h q fun hqw => (hw hqw).elim hqp hq

theorem latchKeys_unchanged (s : State) : unchangedExcept {.kprev} s s.latchKeys := by
  intro p hp
  cases p with
  | kprev => exact absurd rfl hp
  | _ => rfl

/-- A step changes PC, KPREV and what the execution of the fetched instruction changes (40_step_cycle.md R131). -/
theorem unchangedExcept.of_fetched {w : Set Piece} {s u : State} (h : unchangedExcept w s.fetchAdvance u) :
    unchangedExcept ({.pc} ∪ w ∪ {.kprev}) s u.latchKeys :=
  ((setPc_unchanged s _).trans h).trans (latchKeys_unchanged u)

/-- A conditional skip completes, with PC moved on by its condition (40_step_cycle.md R135). -/
theorem exec_of_skipCondition {i : Instr} {s : State} {c : Bool} (h : skipCondition s i = some c) :
    exec i s = .next (s.skipIf c).complete := by
  cases i with
  | seImm | sneImm | seReg | sneReg => cases h; rfl
  | skp x | sknp x => cases h; simp only [exec, execSkp, execSknp, State.keyDown, lowNibble_toNat]
  | _ => cases h

/-- The skip condition reads registers and keys, which the fetch advance leaves. -/
theorem skipCondition_fetchAdvance (s : State) (i : Instr) : skipCondition s.fetchAdvance i = skipCondition s i := rfl

/-- PC after the fetch advance and a skip is exact where the machine fetches (40_step_cycle.md R132, R135). -/
theorem fetchAdvance_skipIf_pc_toNat {s : State} (hf : fetches s) (c : Bool) :
    (s.fetchAdvance.skipIf c).pc.toNat = s.pc.toNat + if c then 4 else 2 := by
  obtain ⟨-, -, hpc⟩ := hf
  have hadv : (s.pc + 2).toNat = s.pc.toNat + 2 := pc_add_two_toNat (by omega)
  cases c with
  | false => exact hadv
  | true =>
    calc (s.pc + 2 + 2).toNat = (s.pc + 2).toNat + 2 := pc_add_two_toNat (by omega)
      _ = s.pc.toNat + 4 := by omega

/-- What a status calls for: MODE and ERR after a step that began with ERR as in `s` (40_step_cycle.md R131, R137). -/
def statusSetsModeAndErr (s t : State) : Prop :=
  (t.status = some .ok ∧ t.mode = .running ∧ t.err = s.err) ∨
  (t.status = some .blocked ∧ t.mode = .blocked ∧ t.err = s.err) ∨
  (∃ e, t.status = some (.error e) ∧ t.mode = .halted ∧ t.err = some e ∧
    ((∃ raw, e = .decodeError raw) → s.params.unknownPolicy = .fatal)) ∨
  (∃ raw, t.status = some (.error (.decodeError raw)) ∧ s.params.unknownPolicy = .nop ∧ t.mode = .running ∧
    t.err = s.err)

/-- Taking an exception halts with it in ERR, but for DecodeError under UNKNOWN_POLICY = NOP (60_exceptions.md R259). -/
theorem raise_statusSetsModeAndErr (s : State) (e : CoreError) : statusSetsModeAndErr s (s.raise e) := by
  cases hf : isFatal s.params e with
  | true =>
    refine .inr (.inr (.inl ⟨e, by simp, by simp [hf], by simp [hf], ?_⟩))
    rintro ⟨raw, rfl⟩
    simpa [isFatal] using hf
  | false =>
    obtain ⟨hnop, raw, rfl⟩ := (isFatal_eq_false_iff _ _).1 hf
    exact .inr (.inr (.inr ⟨raw, by simp, hnop, by simp [hf], by simp [hf]⟩))

/-- Each way an execution ends sets MODE and ERR as its status calls for. -/
theorem exec_statusSetsModeAndErr {i : Instr} {s t : State} (h : exec i s = .next t) : statusSetsModeAndErr s t := by
  cases exec_ends h with
  | completes hu => exact .inl ⟨rfl, rfl, hu.frame .err id⟩
  | blocks x => exact .inr (.inl ⟨rfl, rfl, rfl⟩)
  | raises he => exact raise_statusSetsModeAndErr s _

end Sys2Proof.Machine
end

section
/-! SUPPORT. No instruction reads MODE, and each way an instruction ends writes it: executing an instruction, and so a
step that is not in HALTED, gives the same from every MODE. -/

namespace Sys2Proof.Machine

/-- `MODE <- m`. -/
def State.withMode (s : State) (m : RunMode) : State := { s with mode := m }

section
variable (s : State) (m : RunMode)

theorem raise_withMode (e : CoreError) : (s.withMode m).raise e = s.raise e := rfl

theorem skipIf_withMode (c : Bool) : (s.withMode m).skipIf c = (s.skipIf c).withMode m := by cases c <;> rfl

theorem storeBytes_withMode (base : Nat) (bs : List Byte) :
    (s.withMode m).storeBytes base bs = (s.storeBytes base bs).withMode m := by
  induction bs generalizing s base with
  | nil => rfl
  | cons b bs ih => exact ih (s.setByte base b) (base + 1)

theorem setRegsFrom_withMode (k : Nat) (bs : List Byte) :
    (s.withMode m).setRegsFrom k bs = (s.setRegsFrom k bs).withMode m := by
  induction bs generalizing s k with
  | nil => rfl
  | cons b bs ih => exact ih (s.setV (BitVec.ofNat 4 k) b) (k + 1)

theorem complete_withMode : (s.withMode m).complete = s.complete := rfl

theorem storeChecked_withMode (base : Nat) (bs : List Byte) :
    (s.withMode m).storeChecked base bs = s.storeChecked base bs := by
  simp only [State.storeChecked, storeBytes_withMode, complete_withMode, raise_withMode]

/-- No instruction's outcome depends on the MODE it is executed in (92_eei_decisions.md D29). -/
theorem exec_withMode (i : Instr) : exec i (s.withMode m) = exec i s := by
  have hskip (c : Bool) : ((s.withMode m).skipIf c).complete = (s.skipIf c).complete := by
    rw [skipIf_withMode, complete_withMode]
  cases i with
  | seImm | sneImm | seReg | sneReg | skp | sknp => exact congrArg Host.Outcome.next (hskip _)
  | ldB | stRegs => exact congrArg Host.Outcome.next (storeChecked_withMode s m _ _)
  | ldRegs x =>
    have hload (bs : List Byte) : ((s.withMode m).setRegsFrom 0 bs).complete = (s.setRegsFrom 0 bs).complete := by
      rw [setRegsFrom_withMode, complete_withMode]
    simp only [exec, execLdRegs, hload, raise_withMode]
    rfl
  | _ => rfl

/-- A step outside HALTED does not depend on MODE (40_step_cycle.md R136, 92_eei_decisions.md D29). -/
theorem step_withMode (hs : s.mode ≠ .halted) (hm : m ≠ .halted) : step (s.withMode m) = step s := by
  have hrun (op : Word) : runWord op (s.withMode m) = runWord op s := by
    have hexec : exec (decode op) (s.withMode m).fetchAdvance = exec (decode op) s.fetchAdvance :=
      exec_withMode s.fetchAdvance m (decode op)
    simp only [runWord, hexec]
  have hmode : (s.withMode m).mode ≠ .halted := hm
  simp only [step, if_neg hs, if_neg hmode, hrun, raise_withMode]
  rfl

end

end Sys2Proof.Machine
end

section
/-! SUPPORT. LD Vx,K, by whether some key is newly pressed (45_keypad_timers.md R232). -/

namespace Sys2Proof.Machine

/-- A key is newly pressed when it is down in KEYS and was not in KPREV (45_keypad_timers.md R232). -/
theorem newKeys_getLsbD (s : State) {j : Nat} (hj : j < 16) :
    s.newKeys.getLsbD j = (s.keys.getLsbD j && !s.kprev.getLsbD j) := by
  simp [State.newKeys, hj]

/-- A key that is not newly pressed is up, or was down before. -/
theorem newKeys_getLsbD_eq_false_iff (s : State) {j : Nat} (hj : j < 16) :
    s.newKeys.getLsbD j = false ↔ (s.keys.getLsbD j = true → s.kprev.getLsbD j = true) := by
  rw [newKeys_getLsbD s hj]
  cases s.keys.getLsbD j <;> simp

/-- LD Vx,K with a newly pressed key stores the lowest. -/
theorem exec_ldVxK_of_some {s : State} {k : Nat} (x : Nibble) (h : lowestSet s.newKeys = some k) :
    exec (.ldVxK x) s = .next (s.setV x (BitVec.ofNat 8 k)).complete := by
  simp only [exec, execLdVxK, h]

/-- LD Vx,K with none blocks, with PC put back. -/
theorem exec_ldVxK_of_none {s : State} (x : Nibble) (h : lowestSet s.newKeys = none) :
    exec (.ldVxK x) s = .next (s.setPc (s.pc - 2)).block := by
  simp only [exec, execLdVxK, h]

/-- Fx0A is LD Vx,K (30_encoding.md R110). -/
theorem decode_wordXKK_ldVxK (x : Nibble) : decode (wordXKK 0xF x 0x0A) = .ldVxK x := by
  simp [decode, decodeClassF]

end Sys2Proof.Machine
end

section
/-! The statements about the step cycle. -/

namespace Sys2Proof.Machine

/-- Settles O6: a machine that fetches runs the fetched word, whose two bytes and latch the statement writes out. -/
theorem stepRunsDecodedInstruction : Obligations.StepRunsDecodedInstruction :=
  fun _ hf => step_of_fetches hf

/-- Settles O17: the skip is executed from the advanced PC. -/
theorem skipStepAdvancesByFourOrTwo : Obligations.SkipStepAdvancesByFourOrTwo := by
  intro s c hf hc
  have hexec : exec (decode s.fetchWord) s.fetchAdvance = .next (s.fetchAdvance.skipIf c).complete :=
    exec_of_skipCondition ((skipCondition_fetchAdvance s _).trans hc)
  have hframe := ((skipIf_unchanged s.fetchAdvance c).trans (complete_unchanged _)).of_fetched
  refine ⟨_, step_of_exec hf hexec, fetchAdvance_skipIf_pc_toNat hf c, by simp, rfl, rfl, hframe.mono ?_⟩
  rintro _ ((rfl | ⟨-, rfl⟩ | rfl | rfl) | rfl) <;> simp

/-- Settles O35: the lowest newly pressed key is the lowest bit of `KEYS & ~KPREV`; the PC put back by a blocked step is
the one the fetch advanced. -/
theorem keyWaitTakesLowestNewKeyOrBlocks : Obligations.KeyWaitTakesLowestNewKeyOrBlocks := by
  have hnone (s : State) (h : ∀ j < 16, s.keys.getLsbD j = true → s.kprev.getLsbD j = true) :
      lowestSet s.newKeys = none :=
    (lowestSet_eq_none_iff _).2 fun j hj => (newKeys_getLsbD_eq_false_iff s hj).2 (h j hj)
  refine ⟨decode_wordXKK_ldVxK, ?takesKey, ?blocks, ?blockedStep⟩
  case takesKey =>
    intro s x k hdown hprev hlow
    have hk : k.toNat < 16 := k.isLt
    have hlowest : lowestSet s.newKeys = some k.toNat := by
      refine (lowestSet_eq_some_iff _ _).2 ⟨hk, by simp [newKeys_getLsbD s hk, hdown, hprev], fun j hj => ?_⟩
      exact (newKeys_getLsbD_eq_false_iff s (by omega)).2 (hlow j hj)
    refine ⟨_, exec_ldVxK_of_some x hlowest, endsOk_complete (setV_unchanged s x _), ?_⟩
    have hmod : k.toNat % 256 = k.toNat := by omega
    simp [hmod]
  case blocks =>
    intro s x h
    refine ⟨_, exec_ldVxK_of_none x (hnone s h), rfl, rfl, rfl, ?_⟩
    exact (setPc_unchanged s _).trans (block_unchanged _)
  case blockedStep =>
    intro s x hf hdec h
    have hexec : exec (decode s.fetchWord) s.fetchAdvance = .next (s.fetchAdvance.setPc (s.pc + 2 - 2)).block :=
      hdec ▸ exec_ldVxK_of_none x (hnone s.fetchAdvance h)
    have hframe := ((setPc_unchanged s.fetchAdvance (s.pc + 2 - 2)).trans (block_unchanged _)).of_fetched
    have hpc : s.pc + 2 - 2 = s.pc := BitVec.add_sub_cancel s.pc 2
    refine ⟨_, step_of_exec hf hexec, rfl, rfl, rfl, hframe.of_same (p := .pc) hpc ?_⟩
    rintro _ ((rfl | rfl | rfl | rfl) | rfl) <;> simp

/-- Settles O41: the invariant's bound on SP rules out the only stop of a loaded machine. -/
theorem stepAnswersANextStateOnceLoaded : Obligations.StepAnswersANextStateOnceLoaded :=
  fun _ hs hl => step_answers hs.stackPointer hl

/-- Settles O46: neither mode is HALTED, and nothing else of the step reads MODE. -/
theorem stepInBlockedIsAnOrdinaryStep : Obligations.StepInBlockedIsAnOrdinaryStep :=
  fun s => step_withMode (s.withMode .running) .blocked (by simp [State.withMode]) (by simp)

/-- Settles O48, by the cases of a step: the fetch fault is an exception taken, and an execution ends in one of its
three ways; the fetch advance and the key latch touch neither MODE, ERR nor the status. -/
theorem modeAndErrorFollowTheStatus : Obligations.ModeAndErrorFollowTheStatus := by
  intro s t hm h
  obtain ⟨-, ⟨hhalted, -⟩ | ⟨-, -, rfl⟩ | ⟨-, -, u, hu, rfl⟩⟩ := step_cases h
  · exact absurd hhalted hm
  · exact raise_statusSetsModeAndErr s _
  · have hends : statusSetsModeAndErr s.fetchAdvance u := exec_statusSetsModeAndErr hu
    exact hends

/-- Settles O51: the jump puts PC back where the fetch advance left it from. -/
theorem selfJumpIdles : Obligations.SelfJumpIdles := by
  intro s nnn hf hdec hnnn
  have hexec : exec (decode s.fetchWord) s.fetchAdvance = .next (s.fetchAdvance.setPc (zextAddr nnn)).complete :=
    hdec ▸ rfl
  have hframe := ((setPc_unchanged s.fetchAdvance (zextAddr nnn)).trans (complete_unchanged _)).of_fetched
  have hpc : zextAddr nnn = s.pc := BitVec.eq_of_toNat_eq ((zextAddr_toNat nnn).trans hnnn)
  refine ⟨_, step_of_exec hf hexec, rfl, rfl, hframe.of_same (p := .pc) hpc ?_⟩
  rintro _ ((rfl | rfl | rfl | rfl) | rfl) <;> simp

end Sys2Proof.Machine
end

section
/-! SUPPORT. The four compare-and-skip instructions: where the decoder finds them, and how a skip ends as a handler
(41_control_flow.md R156 to R160). -/

namespace Sys2Proof.Machine

/-- 3xkk is SE Vx,kk (41_control_flow.md R157). -/
theorem decode_wordXKK_seImm (x : Nibble) (kk : Byte) : decode (wordXKK 0x3 x kk) = .seImm x kk := by simp [decode]

/-- 4xkk is SNE Vx,kk (41_control_flow.md R158). -/
theorem decode_wordXKK_sneImm (x : Nibble) (kk : Byte) : decode (wordXKK 0x4 x kk) = .sneImm x kk := by simp [decode]

/-- 5xy0 is SE Vx,Vy (41_control_flow.md R159). -/
theorem decode_wordXYN_seReg (x y : Nibble) : decode (wordXYN 0x5 x y 0) = .seReg x y := by simp [decode]

/-- 9xy0 is SNE Vx,Vy (41_control_flow.md R160). -/
theorem decode_wordXYN_sneReg (x y : Nibble) : decode (wordXYN 0x9 x y 0) = .sneReg x y := by simp [decode]

/-- A conditional skip ends OK with PC moved on exactly when `P`, what its condition tests, holds, and writes PC only. -/
theorem exec_skip_endsOk {i : Instr} {s : State} {c : Bool} {P : Prop} [Decidable P]
    (h : skipCondition s i = some c) (hc : c = true ↔ P) :
    ∃ t, exec i s = .next t ∧ endsOk {.pc} s t ∧ t.pc = if P then s.pc + 2 else s.pc := by
  have hframe : unchangedExcept {.pc} s (s.skipIf c) := (skipIf_unchanged s c).mono fun _ hp => hp.2
  refine ⟨_, exec_of_skipCondition h, endsOk_complete hframe, ?_⟩
  rw [State.complete_pc, State.skipIf_pc]
  exact if_congr hc rfl rfl

/-- The comparison of R156 is of unsigned bytes: the model's `==` on bytes is equality of the numbers they hold. -/
theorem byte_beq_iff_toNat_eq (a b : Byte) : (a == b) = true ↔ a.toNat = b.toNat :=
  beq_iff_eq.trans BitVec.toNat_inj.symm

theorem byte_bne_iff_toNat_ne (a b : Byte) : (a != b) = true ↔ a.toNat ≠ b.toNat :=
  bne_iff_ne.trans BitVec.toNat_inj.symm.not

end Sys2Proof.Machine
end

section
/-! The statement about the compare-and-skip instructions. -/

namespace Sys2Proof.Machine

/-- Settles O16: the four are conditional skips, each on a comparison of two bytes. -/
theorem compareSkipsAdvancePcOnTheirCondition : Obligations.CompareSkipsAdvancePcOnTheirCondition := by
  refine ⟨fun x kk => ⟨decode_wordXKK_seImm x kk, decode_wordXKK_sneImm x kk⟩,
    fun x y => ⟨decode_wordXYN_seReg x y, decode_wordXYN_sneReg x y⟩,
    fun s x y kk => ⟨?seImm, ?sneImm, ?seReg, ?sneReg⟩⟩
  case seImm | seReg => exact exec_skip_endsOk rfl (byte_beq_iff_toNat_eq _ _)
  case sneImm | sneReg => exact exec_skip_endsOk rfl (byte_bne_iff_toNat_ne _ _)

end Sys2Proof.Machine
end

section
/-! The statement about CLS (44_display.md R220). -/

namespace Sys2Proof.Machine

/-- `DISP[row][col]` of the all-off display is 0. -/
@[simp] theorem pixel_blankDisplay (row : Fin 32) (col : Fin 64) : pixel blankDisplay row col = false := by
  simp [pixel, blankDisplay]

/-- 00E0 is CLS (30_encoding.md R102). -/
theorem decode_cls : decode 0x00E0 = .cls := by decide

/-- CLS shows the all-off display and completes (44_display.md R220). -/
theorem exec_cls (s : State) : exec .cls s = .next (s.setDisp blankDisplay).complete := rfl

/-- Settles O31: CLS replaces the display, and nothing else, by the all-off one. -/
theorem clsClearsEveryCell : Obligations.ClsClearsEveryCell := by
  refine ⟨decode_cls, fun s => ⟨_, exec_cls s, endsOk_complete (setDisp_unchanged s blankDisplay), fun row col => ?_⟩⟩
  rw [State.complete_disp, State.setDisp_disp, pixel_blankDisplay]

end Sys2Proof.Machine
end

section
/-! The statement about the exceptions an instruction raises (60_exceptions.md sections 3 and 4). -/

namespace Sys2Proof.Machine

/-- An execution that reports an exception took that exception and did nothing else, and the instruction can raise it
(60_exceptions.md R258, R261). -/
theorem exec_of_status_error {i : Instr} {s t : State} {e : CoreError} (h : exec i s = .next t)
    (he : t.status = some (.error e)) : mayRaise i e ∧ t = s.raise e := by
  cases exec_ends h with
  | completes hu => cases he
  | blocks x => cases he
  | @raises _ e' hmay =>
    rw [State.raise_status] at he
    cases he
    exact ⟨hmay, rfl⟩

/-- Settles O49: the step is the fetch advance, the taking of the exception and the key latch, in that order. -/
theorem executePhaseExceptionsArePrecise : Obligations.ExecutePhaseExceptionsArePrecise := by
  rintro s t e ⟨-, hrun, hpc⟩ h he
  obtain ⟨-, ⟨hhalted, -⟩ | ⟨-, hfault, -⟩ | ⟨-, -, u, hu, rfl⟩⟩ := step_cases h
  · exact absurd hhalted hrun
  · omega
  · obtain ⟨hmay, rfl⟩ := exec_of_status_error hu he
    have hadv : (s.pc + 2).toNat = s.pc.toNat + 2 := pc_add_two_toNat (by omega)
    refine ⟨by simpa using hadv, by simp, (raise_unchanged s.fetchAdvance e).of_fetched.mono ?frame,
      fun hnonfatal => by simp [hnonfatal], hmay⟩
    case frame => rintro _ ((rfl | rfl | rfl | rfl) | rfl) <;> simp

end Sys2Proof.Machine
end

section
/-! SUPPORT. Decoding and encoding (30_encoding.md sections 4 and 5): each way of the round trip, once for all
instructions. The encoding clause of a statement about one instruction is `decode_encode` for its tag. -/

namespace Sys2Proof

/-- The ways a word can be UNKNOWN, one for each row of the table of R116. -/
theorem isUnknownWord_cases {op : Word} (h : isUnknownWord op = true) :
    (classOf op = 0x5 ∧ nOf op ≠ 0) ∨ (classOf op = 0x9 ∧ nOf op ≠ 0) ∨
    (classOf op = 0x8 ∧ (nOf op = 0x8 ∨ nOf op = 0x9 ∨ nOf op = 0xA ∨ nOf op = 0xB ∨ nOf op = 0xC ∨ nOf op = 0xD ∨
      nOf op = 0xF)) ∨
    (classOf op = 0xE ∧ kkOf op ∉ [0x9E, 0xA1]) ∨
    (classOf op = 0xF ∧ kkOf op ∉ [0x07, 0x0A, 0x15, 0x18, 0x1E, 0x29, 0x33, 0x55, 0x65]) := by
  simpa [isUnknownWord, or_assoc] using h

/-- The words of the table decode to UNKNOWN, which carries the word (30_encoding.md R116). -/
theorem decode_of_isUnknownWord {op : Word} (h : isUnknownWord op = true) : decode op = .unknown op := by
  obtain ⟨hc, hn⟩ | ⟨hc, hn⟩ | ⟨hc, hn⟩ | ⟨hc, hk⟩ | ⟨hc, hk⟩ := isUnknownWord_cases h
  · simpa [decode, hc] using hn
  · simpa [decode, hc] using hn
  · rcases hn with hn | hn | hn | hn | hn | hn | hn <;> simp [decode, decodeClass8, hc, hn]
  · simp_all [decode, decodeClassE]
  · simp_all [decode, decodeClassF]

/-- A word of class 0 other than the two exact ones is SYS (30_encoding.md R102). -/
theorem decode_wordNNN_sys {nnn : Addr12} (h : sysFieldOk nnn = true) : decode (wordNNN 0x0 nnn) = .sys nnn := by
  obtain ⟨hcls, hret⟩ : nnn ≠ 0x0E0 ∧ nnn ≠ 0x0EE := by simpa [sysFieldOk] using h
  have hword {a : Addr12} (ha : nnn ≠ a) : ¬ wordNNN 0x0 nnn = wordNNN 0x0 a := fun e =>
    ha (by simpa using congrArg nnnOf e)
  calc decode (wordNNN 0x0 nnn)
    _ = decodeClass0 (wordNNN 0x0 nnn) := by simp [decode]
    _ = .sys (nnnOf (wordNNN 0x0 nnn)) := (if_neg (hword hcls)).trans (if_neg (hword hret))
    _ = .sys nnn := by rw [nnnOf_wordNNN]

/-- Decoding the encoding of a well-formed instruction gives it back. -/
theorem decode_encode (i : Instr) (h : i.wellFormed = true) : decode (encode i) = i := by
  cases i with
  | cls | ret => rfl
  | sys nnn => exact decode_wordNNN_sys h
  | jp | call | ldI | jpV0 => simp [encode, decode]
  | seImm | sneImm | ldImm | addImm | rnd => simp [encode, decode]
  | seReg | sneReg | drw => simp [encode, decode]
  | ldReg | or | and | xor | addReg | sub | shr | subn | shl => simp [encode, decode, decodeClass8]
  | skp | sknp => simp [encode, decode, decodeClassE]
  | ldVxDt | ldVxK | ldDtVx | ldStVx | addI | ldF | ldB | stRegs | ldRegs => simp [encode, decode, decodeClassF]
  | unknown raw => exact decode_of_isUnknownWord h

/-- What the decoder's answer for a word has to be: a well-formed instruction that encodes to it. -/
def RoundTrips (op : Word) (i : Instr) : Prop := i.wellFormed = true ∧ encode i = op

section
variable {op : Word} {c : Nibble}

theorem wordNNN_of_class (hc : classOf op = c) : wordNNN c (nnnOf op) = op := hc ▸ wordNNN_fields op

theorem wordXKK_of_class (hc : classOf op = c) : wordXKK c (xOf op) (kkOf op) = op := hc ▸ wordXKK_fields op

theorem wordXKK_of_fields {kk : Byte} (hc : classOf op = c) (hk : kkOf op = kk) : wordXKK c (xOf op) kk = op :=
  hk ▸ wordXKK_of_class hc

theorem wordXYN_of_class (hc : classOf op = c) : wordXYN c (xOf op) (yOf op) (nOf op) = op := hc ▸ wordXYN_fields op

theorem wordXYN_of_fields {n : Nibble} (hc : classOf op = c) (hn : nOf op = n) :
    wordXYN c (xOf op) (yOf op) n = op := hn ▸ wordXYN_of_class hc

theorem unknown_roundTrips (h : isUnknownWord op = true) : RoundTrips op (.unknown op) := ⟨h, rfl⟩

theorem decodeClass0_roundTrips (hc : classOf op = 0x0) : RoundTrips op (decodeClass0 op) := by
  unfold decodeClass0
  split_ifs with hcls hret
  · exact ⟨rfl, hcls.symm⟩
  · exact ⟨rfl, hret.symm⟩
  · have hop : wordNNN 0x0 (nnnOf op) = op := wordNNN_of_class hc
    have hfield {a : Addr12} (hne : op ≠ wordNNN 0x0 a) : nnnOf op ≠ a := fun e => hne (e ▸ hop.symm)
    have hok : sysFieldOk (nnnOf op) = true := by
      rw [sysFieldOk, Bool.and_eq_true, bne_iff_ne, bne_iff_ne]
      exact ⟨hfield hcls, hfield hret⟩
    exact ⟨hok, hop⟩

/-- 5xy0 and 9xy0 are the words of their class that are no UNKNOWN (30_encoding.md R105, R107). -/
theorem decodeXY0_roundTrips {i : Instr} (hi : i.wellFormed = true) (h59 : c = 0x5 ∨ c = 0x9)
    (henc : encode i = wordXYN c (xOf op) (yOf op) 0) (hc : classOf op = c) :
    RoundTrips op (if nOf op = 0 then i else .unknown op) := by
  split_ifs with hn
  · exact ⟨hi, henc.trans (wordXYN_of_fields hc hn)⟩
  · refine unknown_roundTrips ?_
    rcases h59 with rfl | rfl <;> simpa [isUnknownWord, hc] using hn

/-- The low nibbles of class 8 that select no operation (30_encoding.md R116). -/
theorem lowNibble_unknown_of_not_operation (n : Nibble)
    (h : n.toNat ∉ [0x0, 0x1, 0x2, 0x3, 0x4, 0x5, 0x6, 0x7, 0xE]) :
    [0x8, 0x9, 0xA, 0xB, 0xC, 0xD, 0xF].contains n = true := by
  revert n; decide

theorem decodeClass8_roundTrips (hc : classOf op = 0x8) : RoundTrips op (decodeClass8 op) := by
  have hop {n : Nibble} (h : (nOf op).toNat = n.toNat) : wordXYN 0x8 (xOf op) (yOf op) n = op :=
    wordXYN_of_fields hc (BitVec.eq_of_toNat_eq h)
  unfold decodeClass8
  split
  case h_10 =>
    have hn := lowNibble_unknown_of_not_operation (nOf op) (by simp_all)
    exact unknown_roundTrips (by simp_all [isUnknownWord])
  all_goals exact ⟨rfl, hop ‹_›⟩

theorem decodeClassE_roundTrips (hc : classOf op = 0xE) : RoundTrips op (decodeClassE op) := by
  unfold decodeClassE
  split_ifs with hskp hsknp
  · exact ⟨rfl, wordXKK_of_fields hc hskp⟩
  · exact ⟨rfl, wordXKK_of_fields hc hsknp⟩
  · exact unknown_roundTrips (by simp_all [isUnknownWord])

theorem decodeClassF_roundTrips (hc : classOf op = 0xF) : RoundTrips op (decodeClassF op) := by
  have hop {kk : Byte} (h : kkOf op = kk) : wordXKK 0xF (xOf op) kk = op := wordXKK_of_fields hc h
  unfold decodeClassF
  split_ifs with h07 h0A h15 h18 h1E h29 h33 h55 h65
  exacts [⟨rfl, hop h07⟩, ⟨rfl, hop h0A⟩, ⟨rfl, hop h15⟩, ⟨rfl, hop h18⟩, ⟨rfl, hop h1E⟩, ⟨rfl, hop h29⟩,
    ⟨rfl, hop h33⟩, ⟨rfl, hop h55⟩, ⟨rfl, hop h65⟩, unknown_roundTrips (by simp_all [isUnknownWord])]

end

theorem nibble_eq_15_of_not_below (c : Nibble)
    (h : c.toNat ∉ [0x0, 0x1, 0x2, 0x3, 0x4, 0x5, 0x6, 0x7, 0x8, 0x9, 0xA, 0xB, 0xC, 0xD, 0xE]) : c = 0xF := by
  revert c; decide

/-- The decoder answers every word with a well-formed instruction that encodes to it (30_encoding.md R101). Case `h_k`
is class `k - 1`. -/
theorem decode_roundTrips (op : Word) : RoundTrips op (decode op) := by
  have hclass {c : Nibble} (h : (classOf op).toNat = c.toNat) : classOf op = c := BitVec.eq_of_toNat_eq h
  unfold decode
  split
  case h_1 h => exact decodeClass0_roundTrips (hclass h)
  case h_2 h | h_3 h | h_11 h | h_12 h => exact ⟨rfl, wordNNN_of_class (hclass h)⟩
  case h_4 h | h_5 h | h_7 h | h_8 h | h_13 h => exact ⟨rfl, wordXKK_of_class (hclass h)⟩
  case h_6 h => exact decodeXY0_roundTrips rfl (.inl rfl) rfl (hclass h)
  case h_10 h => exact decodeXY0_roundTrips rfl (.inr rfl) rfl (hclass h)
  case h_9 h => exact decodeClass8_roundTrips (hclass h)
  case h_14 h => exact ⟨rfl, wordXYN_of_class (hclass h)⟩
  case h_15 h => exact decodeClassE_roundTrips (hclass h)
  case h_16 => exact decodeClassF_roundTrips (nibble_eq_15_of_not_below _ (by simp_all))

end Sys2Proof
end

section
/-! SUPPORT. The opcode map: the test of a row, `op & mask = value`, as a test of the word's fields, and the row found
for the encoding of an instruction (30_encoding.md R112). -/

namespace Sys2Proof

theorem word_eq_iff_nnn (a b : Word) : a = b ↔ classOf a = classOf b ∧ nnnOf a = nnnOf b := by
  refine ⟨fun h => by simp [h], fun ⟨hc, hn⟩ => ?_⟩
  rw [← wordNNN_fields a, hc, hn, wordNNN_fields]

theorem word_eq_iff_kk (a b : Word) : a = b ↔ classOf a = classOf b ∧ xOf a = xOf b ∧ kkOf a = kkOf b := by
  refine ⟨fun h => by simp [h], fun ⟨hc, hx, hk⟩ => ?_⟩
  rw [← wordXKK_fields a, hc, hx, hk, wordXKK_fields]

theorem word_eq_iff_n (a b : Word) :
    a = b ↔ classOf a = classOf b ∧ xOf a = xOf b ∧ yOf a = yOf b ∧ nOf a = nOf b := by
  refine ⟨fun h => by simp [h], fun ⟨hc, hx, hy, hn⟩ => ?_⟩
  rw [← wordXYN_fields a, hc, hx, hy, hn, wordXYN_fields]

theorem classOf_and (a b : Word) : classOf (a &&& b) = classOf a &&& classOf b := BitVec.extractLsb'_and

theorem nnnOf_and (a b : Word) : nnnOf (a &&& b) = nnnOf a &&& nnnOf b := BitVec.extractLsb'_and

theorem xOf_and (a b : Word) : xOf (a &&& b) = xOf a &&& xOf b := BitVec.extractLsb'_and

theorem yOf_and (a b : Word) : yOf (a &&& b) = yOf a &&& yOf b := BitVec.extractLsb'_and

theorem kkOf_and (a b : Word) : kkOf (a &&& b) = kkOf a &&& kkOf b := BitVec.extractLsb'_and

theorem nOf_and (a b : Word) : nOf (a &&& b) = nOf a &&& nOf b := BitVec.extractLsb'_and

/-- A row that tests the whole word: the class and the 12 bits below it. -/
@[simp] theorem and_FFFF_eq_iff (op v : Word) :
    op &&& 0xFFFF#16 = v ↔ classOf op = v.extractLsb' 12 4 ∧ nnnOf op = v.extractLsb' 0 12 := by
  rw [word_eq_iff_nnn, classOf_and, nnnOf_and, show classOf 0xFFFF#16 = BitVec.allOnes 4 from rfl,
    show nnnOf 0xFFFF#16 = BitVec.allOnes 12 from rfl, BitVec.and_allOnes, BitVec.and_allOnes]
  rfl

/-- A row that tests the class. -/
@[simp] theorem and_F000_eq_iff (op v : Word) :
    op &&& 0xF000#16 = v ↔ classOf op = v.extractLsb' 12 4 ∧ 0#12 = v.extractLsb' 0 12 := by
  rw [word_eq_iff_nnn, classOf_and, nnnOf_and, show classOf 0xF000#16 = BitVec.allOnes 4 from rfl,
    show nnnOf 0xF000#16 = 0#12 from rfl, BitVec.and_allOnes, BitVec.and_zero]
  rfl

/-- A row that tests the class and the low nibble. -/
@[simp] theorem and_F00F_eq_iff (op v : Word) :
    op &&& 0xF00F#16 = v ↔ classOf op = v.extractLsb' 12 4 ∧ 0#4 = v.extractLsb' 8 4 ∧ 0#4 = v.extractLsb' 4 4 ∧
      nOf op = v.extractLsb' 0 4 := by
  rw [word_eq_iff_n, classOf_and, xOf_and, yOf_and, nOf_and, show classOf 0xF00F#16 = BitVec.allOnes 4 from rfl,
    show xOf 0xF00F#16 = 0#4 from rfl, show yOf 0xF00F#16 = 0#4 from rfl,
    show nOf 0xF00F#16 = BitVec.allOnes 4 from rfl, BitVec.and_allOnes, BitVec.and_allOnes, BitVec.and_zero,
    BitVec.and_zero]
  rfl

/-- A row that tests the class and the low byte. -/
@[simp] theorem and_F0FF_eq_iff (op v : Word) :
    op &&& 0xF0FF#16 = v ↔ classOf op = v.extractLsb' 12 4 ∧ 0#4 = v.extractLsb' 8 4 ∧ kkOf op = v.extractLsb' 0 8 := by
  rw [word_eq_iff_kk, classOf_and, xOf_and, kkOf_and, show classOf 0xF0FF#16 = BitVec.allOnes 4 from rfl,
    show xOf 0xF0FF#16 = 0#4 from rfl, show kkOf 0xF0FF#16 = BitVec.allOnes 8 from rfl, BitVec.and_allOnes,
    BitVec.and_allOnes, BitVec.and_zero]
  rfl

/-- No row before the last matches a word of the UNKNOWN space. -/
theorem decodeByMap_of_isUnknownWord {op : Word} (h : isUnknownWord op = true) :
    decodeByMap op = some (.unknown op) := by
  obtain ⟨hc, hn⟩ | ⟨hc, hn⟩ | ⟨hc, hn⟩ | ⟨hc, hk⟩ | ⟨hc, hk⟩ := isUnknownWord_cases h
  case inr.inr.inl =>
    rcases hn with hn | hn | hn | hn | hn | hn | hn <;>
      simp [decodeByMap, opcodeMap, opcodeMapLow, opcodeMapMid, opcodeMapHigh, hc, hn]
  all_goals simp_all [decodeByMap, opcodeMap, opcodeMapLow, opcodeMapMid, opcodeMapHigh]

/-- The first row that matches the encoding of a well-formed instruction builds that instruction. -/
theorem decodeByMap_encode (i : Instr) (h : i.wellFormed = true) : decodeByMap (encode i) = some i := by
  cases i with
  | cls | ret => rfl
  | sys nnn => simp_all [Instr.wellFormed, sysFieldOk, encode, decodeByMap, opcodeMap, opcodeMapLow]
  | unknown raw => exact decodeByMap_of_isUnknownWord h
  | _ => simp [encode, decodeByMap, opcodeMap, opcodeMapLow, opcodeMapMid, opcodeMapHigh]

/-- The table of R116 on the word as a number. -/
theorem isUnknownWord_iff_table (op : Word) : isUnknownWord op = true ↔
    (op.toNat / 4096 = 5 ∧ op.toNat % 16 ≠ 0) ∨ (op.toNat / 4096 = 9 ∧ op.toNat % 16 ≠ 0) ∨
    (op.toNat / 4096 = 8 ∧ op.toNat % 16 ∈ [8, 9, 10, 11, 12, 13, 15]) ∨
    (op.toNat / 4096 = 14 ∧ op.toNat % 256 ∉ [0x9E, 0xA1]) ∨
    (op.toNat / 4096 = 15 ∧ op.toNat % 256 ∉ [0x07, 0x0A, 0x15, 0x18, 0x1E, 0x29, 0x33, 0x55, 0x65]) := by
  have hlt := op.isLt
  have hclass : op.toNat / 4096 % 16 = op.toNat / 4096 := by omega
  simp [isUnknownWord, ← BitVec.toNat_inj, classOf_toNat, nOf_toNat, kkOf_toNat, hclass, or_assoc]

end Sys2Proof
end

section
/-! The statements about the decoder (30_encoding.md sections 4 and 5). -/

namespace Sys2Proof

/-- Settles O7, from the two ways of the round trip. -/
theorem encodeDecodeBijection : Obligations.EncodeDecodeBijection :=
  ⟨decode_encode, decode_roundTrips⟩

/-- Settles O8: every word is the encoding of the instruction the dispatch algorithm answers, and the map's row for that
encoding builds that instruction. -/
theorem decoderFollowsOpcodeMap : Obligations.DecoderFollowsOpcodeMap := by
  intro op
  obtain ⟨hwf, henc⟩ := decode_roundTrips op
  calc decodeByMap op
    _ = decodeByMap (encode (decode op)) := by rw [henc]
    _ = some (decode op) := decodeByMap_encode _ hwf

/-- Settles O9: an UNKNOWN that the decoder answers is well-formed, so its word lies in the UNKNOWN space, and it
encodes to the word it carries. -/
theorem unknownSpaceIsExactlyTheTable : Obligations.UnknownSpaceIsExactlyTheTable := by
  have hinv (op raw : Word) (h : decode op = .unknown raw) : RoundTrips op (.unknown raw) := h ▸ decode_roundTrips op
  refine ⟨fun op => ?_, fun op raw h => (hinv op raw h).2⟩
  rw [← isUnknownWord_iff_table]
  constructor
  · rintro ⟨raw, h⟩
    obtain ⟨hraw, rfl⟩ := hinv op raw h
    exact hraw
  · exact fun h => ⟨op, decode_of_isUnknownWord h⟩

/-- Settles O10, by running the decoder on each word. -/
theorem sampleWordsDecode : Obligations.SampleWordsDecode := by
  unfold Obligations.SampleWordsDecode
  decide

end Sys2Proof
end

section
/-! SUPPORT. The register writes of the ALU in the terms of the statements: what a flag, a truncated result and the two
writes of R171 leave. -/

namespace Sys2Proof.Machine

/-- A truncation to 8 bits is the residue modulo 256 (00_scope.md R11). -/
theorem trunc8_toNat (n : Int) : ((trunc8 n).toNat : Int) = n % 256 := by
  rw [trunc8, BitVec.toNat_ofInt]
  exact Int.toNat_of_nonneg (Int.emod_nonneg n (by decide))

/-- A truncated sum of bytes is their sum modulo 256 (42_alu.md R174, R179). -/
theorem trunc8_add_toNat (a b : Byte) :
    (trunc8 ((a.toNat : Int) + (b.toNat : Int))).toNat = (a.toNat + b.toNat) % 256 := by
  have := trunc8_toNat ((a.toNat : Int) + (b.toNat : Int))
  omega

/-- The bit a right shift moves out is the remainder by 2 (42_alu.md R181). -/
theorem lsbFlag_toNat (a : Byte) : (lsbFlag a).toNat = a.toNat % 2 := by
  have hbit : a.getLsbD 0 = decide (a.toNat % 2 = 1) := Nat.testBit_zero a.toNat
  rw [lsbFlag, flagByte, hbit]
  rcases Nat.mod_two_eq_zero_or_one a.toNat with h | h <;> simp [h]

/-- The bit a left shift moves out is the quotient by 128 (42_alu.md R183). -/
theorem msbFlag_toNat (a : Byte) : (msbFlag a).toNat = a.toNat / 128 := by
  have hlt := a.isLt
  have hbit : a.getLsbD 7 = decide (a.toNat / 128 % 2 = 1) := Nat.testBit_eq_decide_div_mod_eq
  rw [msbFlag, flagByte, hbit]
  obtain h | h : a.toNat / 128 = 0 ∨ a.toNat / 128 = 1 := by omega
  all_goals simp [h]

theorem carryFlag_eq (a b : Byte) : carryFlag a b = if 255 < a.toNat + b.toNat then 1 else 0 := by
  simp [carryFlag, flagByte]

theorem noBorrowFlag_eq (a b : Byte) : noBorrowFlag a b = if b.toNat ≤ a.toNat then 1 else 0 := by
  simp [noBorrowFlag, flagByte]

theorem setFlagThenV_endsOk (s : State) (x : Nibble) (f b : Byte) :
    endsOk {.v x, .v 15} s (s.setFlagThenV x f b).complete :=
  endsOk_complete ((setFlagThenV_unchanged s x f b).mono (by rintro _ (rfl | rfl) <;> simp [vf]))

theorem setFlagThenV_readV_dest (s : State) (x : Nibble) (f b : Byte) : (s.setFlagThenV x f b).readV x = b := by simp

/-- With x other than 15 the flag stays in VF (42_alu.md R171). -/
theorem setFlagThenV_readV_flag (s : State) {x : Nibble} (hx : x ≠ 15) (f b : Byte) :
    (s.setFlagThenV x f b).readV 15 = f :=
  (State.setFlagThenV_readV s x 15 f b).trans ((if_neg hx.symm).trans (if_pos rfl))

end Sys2Proof.Machine
end

section
/-! The statements about register loads, arithmetic, logic, shifts and the random byte (42_alu.md). -/

namespace Sys2Proof.Machine

/-- Settles O20: each writes one value to V[x]. -/
theorem loadsAndAddImmediateWriteVxOnly : Obligations.LoadsAndAddImmediateWriteVxOnly := by
  refine ⟨fun x kk => ⟨decode_encode (.ldImm x kk) rfl, decode_encode (.addImm x kk) rfl⟩,
    fun x y => decode_encode (.ldReg x y) rfl, fun s x y kk => ⟨?ldImm, ?addImm, ?ldReg⟩⟩
  case ldImm | ldReg => exact ⟨_, rfl, endsOk_complete (setV_unchanged s x _), by simp⟩
  case addImm => exact ⟨_, rfl, endsOk_complete (setV_unchanged s x _), by simp [trunc8_add_toNat]⟩

/-- Settles O21: each writes the bitwise operation of the two bytes to V[x]. -/
theorem logicOperationsActBitwiseAndSetNoFlag : Obligations.LogicOperationsActBitwiseAndSetNoFlag := by
  refine ⟨fun x y => ⟨decode_encode (.or x y) rfl, decode_encode (.and x y) rfl, decode_encode (.xor x y) rfl⟩,
    fun s x y => ⟨?or, ?and, ?xor⟩⟩
  all_goals exact ⟨_, rfl, endsOk_complete (setV_unchanged s x _), fun b _ => by simp⟩

/-- Settles O22: VF is written first, so the sum wins with x = 15. -/
theorem addRegSetsCarryThenSum : Obligations.AddRegSetsCarryThenSum := by
  refine ⟨fun x y => decode_encode (.addReg x y) rfl, fun s x y => ⟨_, rfl, setFlagThenV_endsOk s x _ _, ?sum, ?carry⟩⟩
  case sum => rw [State.complete_readV, setFlagThenV_readV_dest, trunc8_add_toNat]
  case carry => exact fun hx => by rw [State.complete_readV, setFlagThenV_readV_flag s hx, carryFlag_eq]

/-- The two writes of a subtraction `a - b` that ends in V[x] (42_alu.md R180, R182). -/
theorem setNotBorrowThenDifference_endsOk (s : State) (x : Nibble) (a b : Byte) :
    let t := (s.setFlagThenV x (noBorrowFlag a b) (trunc8 ((a.toNat : Int) - (b.toNat : Int)))).complete
    endsOk {.v x, .v 15} s t ∧ ((t.readV x).toNat : Int) = ((a.toNat : Int) - b.toNat) % 256 ∧
      (x ≠ 15 → t.readV 15 = if b.toNat ≤ a.toNat then 1 else 0) := by
  refine ⟨setFlagThenV_endsOk s x _ _, ?difference, fun hx => ?flag⟩
  case difference => rw [State.complete_readV, setFlagThenV_readV_dest, trunc8_toNat]
  case flag => rw [State.complete_readV, setFlagThenV_readV_flag s hx, noBorrowFlag_eq]

/-- Settles O23: the two differ in which operand is the minuend. -/
theorem subtractionsSetNotBorrowThenDifference : Obligations.SubtractionsSetNotBorrowThenDifference :=
  ⟨fun x y => ⟨decode_encode (.sub x y) rfl, decode_encode (.subn x y) rfl⟩, fun s x y =>
    ⟨⟨_, rfl, setNotBorrowThenDifference_endsOk s x (s.readV x) (s.readV y)⟩,
      ⟨_, rfl, setNotBorrowThenDifference_endsOk s x (s.readV y) (s.readV x)⟩⟩⟩

/-- Settles O24: neither shift has V[y] in its result or its flag. -/
theorem shiftsCaptureTheBitMovedOut : Obligations.ShiftsCaptureTheBitMovedOut := by
  refine ⟨fun x y => ⟨decode_encode (.shr x y) rfl, decode_encode (.shl x y) rfl⟩,
    fun s x y => ⟨?shr, ?shl⟩⟩
  case shr =>
    refine ⟨_, rfl, setFlagThenV_endsOk s x _ _, ?_, fun hx => ?_⟩
    · rw [State.complete_readV, setFlagThenV_readV_dest, BitVec.toNat_ushiftRight, Nat.shiftRight_eq_div_pow]
    · rw [State.complete_readV, setFlagThenV_readV_flag s hx, lsbFlag_toNat]
  case shl =>
    refine ⟨_, rfl, setFlagThenV_endsOk s x _ _, ?_, fun hx => ?_⟩
    · rw [State.complete_readV, setFlagThenV_readV_dest, BitVec.toNat_shiftLeft, Nat.shiftLeft_eq]
    · rw [State.complete_readV, setFlagThenV_readV_flag s hx, msbFlag_toNat]

/-- A byte masked with kk has no bit outside kk. -/
theorem and_mask_and_not_mask (r kk : Byte) : r &&& kk &&& ~~~kk = 0 := by
  simp [BitVec.and_assoc]

/-- Settles O25, for every value of the draw. -/
theorem randomByteIsMaskedFreeDraw : Obligations.RandomByteIsMaskedFreeDraw := by
  refine ⟨fun x kk => decode_encode (.rnd x kk) rfl, fun s x kk => ?draw, fun s x kk r => ⟨?mask, ?all⟩⟩
  case draw =>
    have hframe : unchangedExcept {.v x, .draws} s (s.nextDraw.setMaskedDraw x kk (Config.drawByte s.draws)) :=
      ((nextDraw_unchanged s).trans (setMaskedDraw_unchanged _ x kk _)).mono (by rintro _ (rfl | rfl) <;> simp)
    have hread :
        (s.nextDraw.setMaskedDraw x kk (Config.drawByte s.draws)).readV x = Config.drawByte s.draws &&& kk := by simp
    exact ⟨_, rfl, endsOk_complete hframe, hread, hread ▸ and_mask_and_not_mask _ kk, rfl⟩
  case mask => rw [State.setMaskedDraw_readV, if_pos rfl, and_mask_and_not_mask]
  case all => rw [State.setMaskedDraw_readV, if_pos rfl]; exact BitVec.and_allOnes

end Sys2Proof.Machine
end

section
/-! SUPPORT. Control flow at the edges: a call on a full stack, a return on an empty one, SP outside its legal values,
and a fetch outside memory. -/

namespace Sys2Proof.Machine

/-- CALL on a full stack (41_control_flow.md R153). -/
theorem exec_call_of_full {s : State} (nnn : Addr12) (h : s.sp.toNat = 16) :
    exec (.call nnn) s = .next (s.raise (.stackError .overflow)) := by
  have hsp : s.sp = 16 := BitVec.eq_of_toNat_eq h
  exact (dif_neg (by omega)).trans (if_pos hsp)

/-- CALL with SP outside its legal values (log entry 8). -/
theorem exec_call_of_illegal {s : State} (nnn : Addr12) (h : 16 < s.sp.toNat) :
    exec (.call nnn) s = .fault (.stackPointerIllegal s.sp) := by
  have hsp : s.sp ≠ 16 := fun e => by simp [e] at h
  exact (dif_neg (by omega)).trans (if_neg hsp)

/-- RET on an empty stack (41_control_flow.md R154). -/
theorem exec_ret_of_empty {s : State} (h : s.sp.toNat = 0) :
    exec .ret s = .next (s.raise (.stackError .underflow)) := if_pos (BitVec.eq_of_toNat_eq h)

/-- RET with SP outside its legal values (log entry 8). -/
theorem exec_ret_of_illegal {s : State} (h : 16 < s.sp.toNat) :
    exec .ret s = .fault (.stackPointerIllegal s.sp) := by
  have hsp : s.sp ≠ 0 := fun e => by simp [e] at h
  exact (if_neg hsp).trans (dif_neg (by omega))

/-- SP after a push (10_state.md R40). -/
theorem sp_add_one_toNat {b : Byte} (h : b.toNat < 16) : (b + 1).toNat = b.toNat + 1 := by bv_omega

/-- A run of calls that the stack has room for completes, and leaves SP that much higher (41_control_flow.md R153). -/
theorem callTimes_of_room (nnn : Addr12) (n : Nat) (s : State) (h : s.sp.toNat + n ≤ 16) :
    ∃ t, callTimes nnn n s = some t ∧ t.sp.toNat = s.sp.toNat + n ∧
      (s.mode = .running ∨ n ≠ 0 → t.mode = .running) := by
  induction n generalizing s with
  | zero => exact ⟨s, rfl, rfl, by simp⟩
  | succ n ih =>
    have hroom : s.sp.toNat < 16 := by omega
    have hsp : ((s.push s.pc hroom).setPc (zextAddr nnn)).complete.sp.toNat = s.sp.toNat + 1 := sp_add_one_toNat hroom
    obtain ⟨t, ht, htsp, htmode⟩ := ih ((s.push s.pc hroom).setPc (zextAddr nnn)).complete (by omega)
    refine ⟨t, ?_, by omega, fun _ => htmode (.inl rfl)⟩
    rw [callTimes, exec_call_of_lt nnn hroom]
    exact ht

/-- A step that cannot fetch takes MemoryFault(max(PC, 4096)) and latches the keys (20_memory.md R62, 60_exceptions.md
R260). -/
theorem step_of_fetchFault {s : State} (hl : s.loaded = true) (hm : s.mode ≠ .halted) (hpc : 0xFFF ≤ s.pc.toNat) :
    step s = .next (s.raise (.memoryFault (max s.pc.toNat 4096))).latchKeys := by
  have hfault : s.fetchFault = some (max s.pc.toNat 4096) :=
    (rangeFault_eq_some_iff _ _ _).2 ⟨⟨by decide, by omega⟩, rfl⟩
  simp [step, hl, hm, hfault]

end Sys2Proof.Machine
end

section
/-! The statements about control flow (41_control_flow.md) and the fetch fault (60_exceptions.md section 4). -/

namespace Sys2Proof.Machine

/-- Settles O5: the fault address max(PC, 4096) by cases on PC = 0xFFF. -/
theorem fetchFaultHaltsAndKeepsPc : Obligations.FetchFaultHaltsAndKeepsPc := by
  intro s hl hm hpc
  have haddr : (if s.pc.toNat = 0xFFF then 4096 else s.pc.toNat) = max s.pc.toNat 4096 := by split <;> omega
  obtain ⟨hmode, herr, hstatus, hframe⟩ := raise_takesFatal s (.memoryFault (max s.pc.toNat 4096)) rfl
  refine ⟨_, step_of_fetchFault hl hm hpc, hmode, by rw [haddr]; exact herr, ?status, by simp,
    (hframe.trans (latchKeys_unchanged _)).mono ?frame⟩
  case status =>
    rw [State.latchKeys_status, State.latchKeys_err, hstatus, herr]
    rfl
  case frame => rintro _ ((rfl | rfl | rfl) | rfl) <;> simp

/-- Settles O11: SYS makes no update, JP the one of PC. -/
theorem sysAndJumpSetPcOnly : Obligations.SysAndJumpSetPcOnly := by
  refine ⟨fun nnn hcls hret => decode_encode (.sys nnn) (by simpa [Instr.wellFormed, sysFieldOk] using ⟨hcls, hret⟩),
    fun nnn => decode_encode (.jp nnn) rfl, fun s nnn => ⟨?sys, ?jp⟩⟩
  case sys => exact ⟨_, rfl, endsOk_complete (unchangedExcept.refl s)⟩
  case jp => exact ⟨_, rfl, endsOk_complete (setPc_unchanged s _), zextAddr_toNat nnn⟩

/-- Settles O12: the sum fits in 16 bits, and a fetch from 0xFFF or above faults. -/
theorem jumpWithOffsetIsNotMasked : Obligations.JumpWithOffsetIsNotMasked := by
  refine ⟨fun nnn => decode_encode (.jpV0 nnn) rfl, fun s nnn => ?_⟩
  have hpc := jpV0Target_toNat nnn (s.readV 0)
  refine ⟨_, rfl, endsOk_complete (setPc_unchanged s _), hpc, fun hl hsum => ?_⟩
  refine ⟨_, step_of_fetchFault hl (by simp) (hpc ▸ hsum), ?mode, ?err, ?pc⟩
  case mode => simp [isFatal]
  case err => rw [← hpc]; simp [isFatal]
  case pc => simp

/-- Settles O13: the push and the jump of R153, or the overflow. -/
theorem callPushesAdvancedPcOrOverflows : Obligations.CallPushesAdvancedPcOrOverflows := by
  refine ⟨fun nnn => decode_encode (.call nnn) rfl, fun s nnn => ⟨fun k hk => ?push, fun h => ?overflow⟩⟩
  case push =>
    have hroom : s.sp.toNat < 16 := hk ▸ k.isLt
    obtain rfl : k = ⟨s.sp.toNat, hroom⟩ := Fin.ext hk.symm
    have hframe := (push_unchanged s s.pc hroom).trans (setPc_unchanged _ (zextAddr nnn))
    refine ⟨_, exec_call_of_lt nnn hroom, endsOk_complete (hframe.mono ?_), by simp, sp_add_one_toNat hroom,
      zextAddr_toNat nnn⟩
    rintro _ ((rfl | rfl) | rfl) <;> simp
  case overflow => exact ⟨_, exec_call_of_full nnn h, raise_takesFatal s _ rfl⟩

/-- Settles O14: the pop of R154, or the underflow. -/
theorem retPopsOrUnderflows : Obligations.RetPopsOrUnderflows := by
  refine ⟨decode_encode .ret rfl, fun s => ⟨fun k hk => ?pop, fun h => ?underflow⟩⟩
  case pop =>
    have h0 : s.sp ≠ 0 := fun e => by simp [e] at hk
    have hk' : s.sp.toNat - 1 = k.val := by omega
    refine ⟨_, exec_ret_of_pos h0 (by omega), endsOk_complete (popToPc_unchanged s _), ?sp, by simp [hk']⟩
    case sp => rw [State.complete_sp, State.popToPc_sp, pred_toNat h0, hk']
  case underflow => exact ⟨_, exec_ret_of_empty h, raise_takesFatal s _ rfl⟩

/-- Settles O15: the last branch of each of the two. -/
theorem illegalStackPointerStops : Obligations.IllegalStackPointerStops :=
  fun _ nnn h => ⟨exec_call_of_illegal nnn h, exec_ret_of_illegal h⟩

/-- Settles O19: an empty stack has room for sixteen calls, which fill it. -/
theorem seventeenthCallOverflows : Obligations.SeventeenthCallOverflows := by
  intro s nnn h0
  have hsp : s.sp.toNat = 0 := by simp [h0]
  obtain ⟨t, ht, htsp, htmode⟩ := callTimes_of_room nnn 16 s (by omega)
  rw [hsp] at htsp
  exact ⟨t, ht, htsp, htmode (.inr (by decide)), _, exec_call_of_full nnn htsp, raise_takesFatal t _ rfl⟩

end Sys2Proof.Machine
end

section
/-! SUPPORT. The memory instructions where their bytes lie inside memory and where they do not (20_memory.md R67). -/

namespace Sys2Proof.Machine

/-- A checked store that leaves memory takes MemoryFault(max(base, 4096)) (20_memory.md R67). -/
theorem storeChecked_of_exceeds {s : State} {base : Nat} {bs : List Byte} (h0 : bs.length ≠ 0)
    (h : 4096 < base + bs.length) : s.storeChecked base bs = s.raise (.memoryFault (max base 4096)) := by
  rcases storeChecked_cases s base bs with ⟨hin | hin, -⟩ | ⟨-, hs⟩
  · exact absurd hin h0
  · omega
  · exact hs

/-- LD B,Vx inside memory stores the three digits from I up (43_index_memory.md R203). -/
theorem exec_ldB_of_fits {s : State} (x : Nibble) (h : s.i.toNat + 2 < 4096) :
    exec (.ldB x) s = .next (s.storeBytes s.i.toNat (bcdDigits (s.readV x))).complete := by
  have hlen : (bcdDigits (s.readV x)).length = 3 := rfl
  rcases storeChecked_cases s s.i.toNat (bcdDigits (s.readV x)) with ⟨-, hs⟩ | ⟨⟨-, hout⟩, -⟩
  · exact congrArg Host.Outcome.next hs
  · omega

theorem exec_ldB_of_exceeds {s : State} (x : Nibble) (h : 4096 ≤ s.i.toNat + 2) :
    exec (.ldB x) s = .next (s.raise (.memoryFault (max s.i.toNat 4096))) := by
  have hlen : (bcdDigits (s.readV x)).length = 3 := rfl
  exact congrArg Host.Outcome.next (storeChecked_of_exceeds (base := s.i.toNat) (by omega) (by omega))

theorem exec_stRegs_of_exceeds {s : State} {x : Nibble} (h : 4096 ≤ s.i.toNat + x.toNat) :
    exec (.stRegs x) s = .next (s.raise (.memoryFault (max s.i.toNat 4096))) := by
  have hx := x.isLt
  have hlen : (s.firstRegs (x.toNat + 1)).length = x.toNat + 1 := by rw [State.firstRegs_length]; omega
  exact congrArg Host.Outcome.next (storeChecked_of_exceeds (base := s.i.toNat) (by omega) (by omega))

theorem exec_ldRegs_of_exceeds {s : State} {x : Nibble} (h : 4096 ≤ s.i.toNat + x.toNat) :
    exec (.ldRegs x) s = .next (s.raise (.memoryFault (max s.i.toNat 4096))) := by
  have hfault : rangeFault (s.ea 0) (x.toNat + 1) = some (max s.i.toNat 4096) :=
    (rangeFault_eq_some_iff _ _ _).2 ⟨⟨by omega, by simp only [State.ea]; omega⟩, rfl⟩
  simp only [exec, execLdRegs, hfault]

/-- A store from I up changes at most the bytes of its range. -/
theorem storeBytes_memRange_endsOk (s : State) {bs : List Byte} {len : Nat} (h : bs.length ≤ len) :
    endsOk (memRange s len) s (s.storeBytes s.i.toNat bs).complete :=
  endsOk_complete ((storeBytes_unchanged s s.i.toNat bs).mono fun _ ⟨k, hk, hp⟩ => ⟨k, by omega, hp⟩)

/-- Each decimal digit of a byte fits in a byte. -/
theorem bcdDigits_toNat (b : Byte) :
    (bcdDigits b).map BitVec.toNat = [b.toNat / 100, b.toNat / 10 % 10, b.toNat % 10] := by
  have hb := b.isLt
  simp only [bcdDigits, List.map_cons, List.map_nil, BitVec.toNat_ofNat, List.cons.injEq, and_true]
  omega

/-- Byte `k` of a store of the decimal digits is digit `k`. -/
theorem storeBytes_bcdDigits_byteAt (s : State) (b : Byte) (k : Nat) (hk : k < 3) :
    ((s.storeBytes s.i.toNat (bcdDigits b)).byteAt (s.ea k)).toNat =
      [b.toNat / 100, b.toNat / 10 % 10, b.toNat % 10][k] := by
  calc ((s.storeBytes s.i.toNat (bcdDigits b)).byteAt (s.ea k)).toNat
    _ = ((bcdDigits b)[k]'hk).toNat := congrArg _ (State.storeBytes_byteAt_inside s s.i.toNat k (bcdDigits b) hk)
    _ = ((bcdDigits b).map BitVec.toNat)[k] := (List.getElem_map BitVec.toNat).symm
    _ = [b.toNat / 100, b.toNat / 10 % 10, b.toNat % 10][k] := by simp only [bcdDigits_toNat]

/-- The address of a glyph is 5 times its number (43_index_memory.md R202). -/
theorem glyphAddr_toNat (d : Nibble) : (glyphAddr d).toNat = 5 * d.toNat := by
  have hd := d.isLt
  simp only [glyphAddr, fontBase, glyphSize, BitVec.toNat_ofNat]
  omega

end Sys2Proof.Machine
end

section
/-! The statements about the address register and the memory instructions (43_index_memory.md). -/

namespace Sys2Proof.Machine

/-- Settles O26: each writes one value to I. -/
theorem addressRegisterInstructionsWriteIOnly : Obligations.AddressRegisterInstructionsWriteIOnly := by
  refine ⟨fun nnn => decode_encode (.ldI nnn) rfl, fun x => ⟨decode_encode (.addI x) rfl, decode_encode (.ldF x) rfl⟩,
    fun s x nnn => ⟨?ldI, ?addI, ?ldF⟩⟩
  case ldI => exact ⟨_, rfl, endsOk_complete (setI_unchanged s _), zextAddr_toNat nnn⟩
  case addI =>
    refine ⟨_, rfl, endsOk_complete (setI_unchanged s _), ?_⟩
    rw [State.complete_i, State.setI_i, BitVec.toNat_add, zextByte_toNat]
  case ldF =>
    refine ⟨_, rfl, endsOk_complete (setI_unchanged s _), ?_⟩
    rw [State.complete_i, State.setI_i, glyphAddr_toNat, lowNibble_toNat]

/-- Settles O27: the store of the three digits, or the fault of the bounds check before it. -/
theorem bcdStoreWritesThreeDigitsOrFaults : Obligations.BcdStoreWritesThreeDigitsOrFaults := by
  refine ⟨fun x => decode_encode (.ldB x) rfl, fun s x => ⟨fun h => ?store, fun h => ?fault⟩⟩
  case store =>
    have hdigit := storeBytes_bcdDigits_byteAt s (s.readV x)
    exact ⟨_, exec_ldB_of_fits x h, storeBytes_memRange_endsOk s (Nat.le_refl 3), hdigit 0 (by decide),
      hdigit 1 (by decide), hdigit 2 (by decide)⟩
  case fault => exact ⟨_, exec_ldB_of_exceeds x h, raise_takesFatal s _ rfl⟩

/-- Settles O28: the store of the first registers, or the fault of the bounds check before it. -/
theorem blockStoreWritesRegistersOrFaults : Obligations.BlockStoreWritesRegistersOrFaults := by
  refine ⟨fun x => decode_encode (.stRegs x) rfl, fun s x => ⟨fun h => ?store, fun h => ?fault⟩⟩
  case store =>
    refine ⟨_, exec_stRegs_of_fits h, storeBytes_memRange_endsOk s (by simp), fun r hr => ?_⟩
    exact State.storeBytes_firstRegs_byteAt s s.i.toNat (Nat.lt_succ_of_le hr)
  case fault => exact ⟨_, exec_stRegs_of_exceeds h, raise_takesFatal s _ rfl⟩

/-- Settles O29: the load of the first registers, or the fault of the bounds check before it. -/
theorem blockLoadReadsRegistersOrFaults : Obligations.BlockLoadReadsRegistersOrFaults := by
  refine ⟨fun x => decode_encode (.ldRegs x) rfl, fun s x => ⟨fun h => ?load, fun h => ?fault⟩⟩
  case load =>
    have hx : x.toNat + 1 ≤ 16 := x.isLt
    have hframe := setRegsFrom_zero_unchanged s (s.loadBytes s.i.toNat (x.toNat + 1)) (by simpa using hx)
    refine ⟨_, exec_ldRegs_of_fits h, endsOk_complete (hframe.mono ?_), fun r hr => ?_⟩
    · rintro _ ⟨r, hr, rfl⟩
      exact ⟨r, by simpa [Nat.lt_succ_iff] using hr, rfl⟩
    · rw [State.complete_readV, State.setRegsFrom_loadBytes_readV s _ hx, if_pos (Nat.lt_succ_of_le hr)]
      rfl
  case fault => exact ⟨_, exec_ldRegs_of_exceeds h, raise_takesFatal s _ rfl⟩

end Sys2Proof.Machine
end

section
/-! SUPPORT. DRW in the terms of the statements: the drawing of the sprite that is read from I up (44_display.md
R221). -/

namespace Sys2Proof.Machine

/-- A set bit `b` columns right of the start, as `spriteCovers` says it: the column is `b` to the right, wrapped. -/
theorem rowCovers_range_iff (x0 : Nat) (byte : Byte) (c : Fin 64) : rowCovers x0 byte (List.range 8) c ↔
    ∃ b, b < 8 ∧ byte.getLsbD (7 - b) = true ∧ c.val = (x0 + b) % 64 := by
  simp [rowCovers, wrapCol, Fin.ext_iff]

/-- The cells under the set bits of the bytes read from I up are those the sprite covers. -/
theorem rowsCover_loadBytes_iff (s : State) (x y n : Nibble) (row : Fin 32) (col : Fin 64) :
    rowsCover ((s.readV x).toNat % 64) ((s.readV y).toNat % 32) (s.loadBytes (s.ea 0) n.toNat) row col ↔
      spriteCovers s x y n row col := by
  simp only [rowsCover, spriteCovers, rowCovers_range_iff, State.loadBytes_getElem?]
  constructor
  · rintro ⟨r, byte, hbyte, hrow, b, hb, hbit, hcol⟩
    obtain ⟨hr, rfl⟩ : r < n.toNat ∧ s.byteAt (s.ea 0 + r) = byte := by simpa using hbyte
    exact ⟨r, b, hr, hb, hbit, congrArg Fin.val hrow, hcol⟩
  · rintro ⟨r, b, hr, hb, hbit, hrow, hcol⟩
    exact ⟨r, s.byteAt (s.ea r), if_pos hr, Fin.ext hrow, b, hb, hbit, hcol⟩

open Classical in
/-- The drawing of DRW inverts the cells the sprite covers and notes whether one of them was set (44_display.md
R221). -/
theorem drawSprite_spec (s : State) (x y n : Nibble) :
    let g := drawSprite s.disp (s.readV x) (s.readV y) (s.loadBytes (s.ea 0) n.toNat)
    (∀ row col, pixel g.disp row col = (pixel s.disp row col ^^ decide (spriteCovers s x y n row col))) ∧
      (g.hit = true ↔ ∃ row col, spriteCovers s x y n row col ∧ pixel s.disp row col = true) := by
  have hn := n.isLt
  have h := drawRows_spec ((s.readV x).toNat % 64) ((s.readV y).toNat % 32) (s.loadBytes (s.ea 0) n.toNat)
    ⟨s.disp, false⟩ (by rw [State.loadBytes_length]; omega)
  simpa only [drawSprite, rowsCover_loadBytes_iff, Bool.false_eq_true, false_or] using h

/-- DRW of a sprite inside memory, or of no rows (44_display.md R221). -/
theorem exec_drw_of_fits {s : State} (x y : Nibble) {n : Nibble} (h : n.toNat = 0 ∨ s.i.toNat + n.toNat ≤ 4096) :
    exec (.drw x y n) s = .next (s.applyDrawing
      (drawSprite s.disp (s.readV x) (s.readV y) (s.loadBytes (s.ea 0) n.toNat))).complete := by
  have hfit : rangeFault (s.ea 0) n.toNat = none := (rangeFault_eq_none_iff _ _).2 h
  simp only [exec, execDrw, hfit]

theorem exec_drw_of_exceeds {s : State} (x y : Nibble) {n : Nibble} (h0 : n.toNat ≠ 0)
    (h : 4096 < s.i.toNat + n.toNat) :
    exec (.drw x y n) s = .next (s.raise (.memoryFault (max s.i.toNat 4096))) := by
  have hfault : rangeFault (s.ea 0) n.toNat = some (max s.i.toNat 4096) :=
    (rangeFault_eq_some_iff _ _ _).2 ⟨⟨h0, h⟩, rfl⟩
  simp only [exec, execDrw, hfault]

/-- What a sprite covers depends on its two coordinates, I, and memory. -/
theorem spriteCovers_congr {s t : State} {x y : Nibble} (hx : t.readV x = s.readV x) (hy : t.readV y = s.readV y)
    (hi : t.i = s.i) (hmem : ∀ a, t.byteAt a = s.byteAt a) (n : Nibble) (row : Fin 32) (col : Fin 64) :
    spriteCovers t x y n row col ↔ spriteCovers s x y n row col := by
  simp only [spriteCovers, State.ea, hx, hy, hi, hmem]

end Sys2Proof.Machine
end

section
/-! The statements about DRW (44_display.md R221 to R223). -/

namespace Sys2Proof.Machine

/-- Settles O32, from what the drawing does to each cell and to the collision flag. -/
theorem drwXorsSpriteAndReportsCollision : Obligations.DrwXorsSpriteAndReportsCollision := by
  refine ⟨fun x y n => decode_encode (.drw x y n) rfl, fun s x y n => ⟨fun h => ?draws, fun h0 h => ?fault⟩⟩
  case draws =>
    obtain ⟨hcell, hhit⟩ := drawSprite_spec s x y n
    refine ⟨_, exec_drw_of_fits x y h, endsOk_complete ?frame, ?inverted, ?collision, ?noCollision⟩
    case frame =>
      intro p hp
      cases p with
      | pixel row col =>
        have hnot : ¬ spriteCovers s x y n row col := fun hc => hp (.inl ⟨row, col, hc, rfl⟩)
        exact (hcell row col).trans (by simp [hnot])
      | v r => exact applyDrawing_unchanged s _ _ (by simpa [vf] using hp)
      | _ => exact applyDrawing_unchanged s _ _ (by simp)
    case inverted => exact fun row col hc => (hcell row col).trans (by simp [hc])
    case collision => exact fun hc => by simp [hhit.2 hc, vf, flagByte]
    case noCollision => exact fun hc => by simp [Bool.eq_false_iff.2 (mt hhit.1 hc), vf, flagByte]
  case fault => exact ⟨_, exec_drw_of_exceeds x y h0 h, raise_takesFatal s _ rfl⟩

/-- Settles O33, from O32: the first draw leaves what decides which cells the second covers, and inverts those cells. -/
theorem drawingTwiceRestoresTheDisplay : Obligations.DrawingTwiceRestoresTheDisplay := by
  intro s x y n hx hy hfit
  obtain ⟨-, hdraw⟩ := drwXorsSpriteAndReportsCollision
  obtain ⟨t, ht, ⟨-, -, hsame⟩, hflip, -, -⟩ := (hdraw s x y n).1 (.inr hfit)
  have hi : t.i = s.i := hsame .i (by simp)
  have hcovers : ∀ row col, spriteCovers t x y n row col ↔ spriteCovers s x y n row col :=
    spriteCovers_congr (hsame (.v x) (by simpa using hx)) (hsame (.v y) (by simpa using hy)) hi
      (fun a => hsame (.mem a) (by simp)) n
  obtain ⟨u, hu, ⟨-, -, hsame'⟩, hflip', hhit, hnohit⟩ := (hdraw t x y n).1 (.inr (hi ▸ hfit))
  have hcollides : (∃ row col, spriteCovers t x y n row col ∧ pixel t.disp row col = true) ↔
      ∃ row col, spriteCovers s x y n row col ∧ pixel s.disp row col = false := by
    refine exists₂_congr fun row col => ?_
    rw [hcovers]
    exact and_congr_right fun hc => by rw [hflip row col hc, Bool.not_eq_true']
  refine ⟨t, u, ht, hu, fun row col => ?_, fun h => hhit (hcollides.2 h), fun h => hnohit (mt hcollides.1 h)⟩
  by_cases hc : spriteCovers s x y n row col
  · rw [hflip' row col ((hcovers row col).2 hc), hflip row col hc, Bool.not_not]
  · have h1 : pixel t.disp row col = pixel s.disp row col := hsame (.pixel row col) (by simpa using hc)
    have h2 : pixel u.disp row col = pixel t.disp row col := hsame' (.pixel row col) (by simpa [hcovers] using hc)
    rw [h2, h1]

end Sys2Proof.Machine
end

section
/-! The statements about the key skips, the timer instructions (45_keypad_timers.md) and UNKNOWN (60_exceptions.md
R251). -/

namespace Sys2Proof.Machine

/-- Settles O34: the two are conditional skips on the level of one key. -/
theorem keySkipsTestTheLevelOfTheKey : Obligations.KeySkipsTestTheLevelOfTheKey :=
  ⟨fun x => ⟨decode_encode (.skp x) rfl, decode_encode (.sknp x) rfl⟩,
    fun _ _ => ⟨exec_skip_endsOk rfl Iff.rfl, exec_skip_endsOk rfl (Bool.not_eq_true' _).to_iff⟩⟩

/-- Settles O36: each is one write. -/
theorem timerInstructionsMoveOneByte : Obligations.TimerInstructionsMoveOneByte := by
  refine ⟨fun x => ⟨decode_encode (.ldVxDt x) rfl, decode_encode (.ldDtVx x) rfl, decode_encode (.ldStVx x) rfl⟩,
    fun s x => ⟨?ldVxDt, ?ldDtVx, ?ldStVx⟩⟩
  case ldVxDt => exact ⟨_, rfl, endsOk_complete (setV_unchanged s x _), by simp⟩
  case ldDtVx => exact ⟨_, rfl, endsOk_complete (setDt_unchanged s _), rfl⟩
  case ldStVx => exact ⟨_, rfl, endsOk_complete (setSt_unchanged s _), rfl⟩

/-- Settles O37: whether a DecodeError is fatal is the policy; one that is not leaves ERR. -/
theorem unknownRaisesDecodeErrorByPolicy : Obligations.UnknownRaisesDecodeErrorByPolicy := by
  refine ⟨fun _ => decode_of_isUnknownWord, fun s raw h => ?fatal, fun s raw h => ?nop⟩
  case fatal => exact ⟨_, rfl, raise_takesFatal s (.decodeError raw) (by simp [isFatal, h])⟩
  case nop =>
    have hf : isFatal s.params (.decodeError raw) = false := (isFatal_eq_false_iff _ _).2 ⟨h, raw, rfl⟩
    have herr : (s.raise (.decodeError raw)).err = s.err := by simp [hf]
    refine ⟨_, rfl, by simp [hf], by simp, (raise_unchanged s _).of_same (p := .err) herr ?_⟩
    rintro _ (rfl | rfl | rfl) <;> simp

end Sys2Proof.Machine
end

section
/-! The statement about the key latch (40_step_cycle.md R138). -/

namespace Sys2Proof.Machine

/-- After the latch no key is newly pressed (45_keypad_timers.md R232). -/
theorem newKeys_latchKeys (s : State) : s.latchKeys.newKeys = 0 := BitVec.and_not_self s.keys

/-- Settles O47: only the report in HALTED comes without the latch, and nothing in a step writes KEYS. -/
theorem everyLiveStepLatchesTheKeys : Obligations.EveryLiveStepLatchesTheKeys := by
  intro s t h
  obtain ⟨-, ⟨hm, rfl⟩ | ⟨hm, -, rfl⟩ | ⟨hm, -, u, hu, rfl⟩⟩ := step_cases h
  · simp [hm]
  · exact ⟨by simp, fun _ => ⟨by simp, newKeys_latchKeys _⟩, fun hh => absurd hh hm⟩
  · have hkeys : u.keys = s.keys := exec_frame hu .keys (by simp [mayWrite])
    exact ⟨hkeys, fun _ => ⟨hkeys, newKeys_latchKeys u⟩, fun hh => absurd hh hm⟩

end Sys2Proof.Machine
end

section
/-! SUPPORT. The Host's moves that the statements speak of: Reset, Load, the timers and the reads (10_state.md section
8, 70_reset_and_hazards.md). -/

namespace Sys2Proof.Machine

/-- The after-Reset column of 10_state.md R57, for any open parameters. -/
theorem resetWith_atResetValues (p : Params) (draws : Nat) : atResetValues (State.resetWith p draws) := by
  refine ⟨fun x => ?v, rfl, rfl, fun k => ?stack, rfl, rfl, fun k hk => ?font, fun a ha _ => ?mem,
    fun row col => ?pixel, rfl, rfl, rfl, rfl⟩
  case v => simp [State.resetWith, State.readV]
  case stack => simp [State.resetWith]
  case font => exact dif_pos (c := fontBase ≤ k ∧ k < fontBase + 80) ⟨Nat.zero_le k, by simpa [fontBase] using hk⟩
  case mem => exact dif_neg (by simp only [fontBase]; omega)
  case pixel => exact pixel_blankDisplay row col

theorem romFits_iff (len : Nat) : romFits len = true ↔ len + 0x200 ≤ 4096 := by
  simp [romFits, programBase, memSize]

/-- A ROM that fits is loaded (70_reset_and_hazards.md R295). -/
theorem hostLoad_of_fits {rom : List Byte} (s : State) (h : rom.length + 0x200 ≤ 4096) :
    hostLoad rom s = (.ok, loadRom rom s) := if_pos ((romFits_iff _).2 h)

/-- A longer one changes nothing (70_reset_and_hazards.md R295). -/
theorem hostLoad_of_exceeds {rom : List Byte} (s : State) (h : 4096 < rom.length + 0x200) :
    hostLoad rom s = (.capacityError rom.length, s) :=
  if_neg fun hfits => absurd ((romFits_iff _).1 hfits) (by omega)

/-- A Load stores the ROM from 0x200 up and otherwise writes PC, SP, MODE, ERR and LOADED (70_reset_and_hazards.md
R296). -/
theorem loadRom_unchanged (rom : List Byte) (s : State) :
    unchangedExcept ({p | ∃ k, k < rom.length ∧ p = .mem (0x200 + k)} ∪ {.pc, .sp, .mode, .err, .loaded}) s
      (loadRom rom s) := by
  refine (storeBytes_unchanged s programBase rom).trans fun p hp => ?_
  cases p with
  | pc | sp | mode | err | loaded => simp at hp
  | _ => rfl

/-- A tick lowers a timer by one, and zero stays zero (10_state.md R54). -/
theorem tickDown_toNat (b : Byte) : (tickDown b).toNat = b.toNat - 1 := by
  unfold tickDown
  split
  · next h => exact pred_toNat fun e => by simp [e] at h
  · omega

/-- The display as it is read is the rows one after the other (10_state.md R46). -/
theorem hostReadDisplay_eq_flatten (s : State) : hostReadDisplay s = s.disp.flatten.toList := by
  simp only [hostReadDisplay, Vector.flatten, Vector.toList, Array.toList_flatten, Array.toList_map, List.map_map]
  rfl

end Sys2Proof.Machine
end

section
/-! The statements about the Host's moves (10_state.md section 8, 70_reset_and_hazards.md) and about HALTED
(60_exceptions.md section 5). -/

namespace Sys2Proof.Machine

/-- Settles O1: construction and Reset both leave `State.resetWith`. -/
theorem resetLeavesSpecifiedValues : Obligations.ResetLeavesSpecifiedValues :=
  ⟨resetWith_atResetValues _ _, rfl, fun s => ⟨resetWith_atResetValues s.params s.draws, rfl⟩⟩

/-- Settles O2: the first test of a step is LOADED, which Reset clears and a failed Load leaves. -/
theorem stepBeforeLoadIsRefused : Obligations.StepBeforeLoadIsRefused :=
  ⟨fun _ => rfl, fun _ h => if_pos h, fun _ s h => by rw [hostLoad_of_exceeds s h]⟩

/-- Settles O3, by whether the ROM fits. -/
theorem loadCopiesRomAndStartsAtBase : Obligations.LoadCopiesRomAndStartsAtBase := by
  refine ⟨fun rom s h => ?_, fun rom s => hostLoad_of_exceeds s⟩
  exact ⟨loadRom rom s, hostLoad_of_fits s h, fun k hk => State.storeBytes_byteAt_inside s 0x200 k rom hk, rfl, rfl,
    rfl, rfl, rfl, loadRom_unchanged rom s⟩

/-- Settles O4: of the moves, a step from HALTED reports, the moves of keys and timers do not touch MODE, and a Load
that does not fit changes nothing. -/
theorem haltedIsStickyUntilResetOrLoad : Obligations.HaltedIsStickyUntilResetOrLoad := by
  refine ⟨fun s e hl hm he => ?report, fun m s t hm hmove hleft => ?leaves, fun s => ⟨rfl, rfl⟩, fun rom s h => ?load⟩
  case report =>
    have hreport : s.reportHalted = { s with status := some (.error e) } := by simp only [State.reportHalted, he]
    refine ⟨_, (if_neg (by simp [hl])).trans (if_pos hm), by rw [hreport], fun p hp => ?_⟩
    cases p with
    | status => exact absurd rfl hp
    | _ => rw [hreport]; rfl
  case leaves =>
    cases m with
    | step =>
      obtain ⟨-, ⟨-, rfl⟩ | ⟨hrun, -⟩ | ⟨hrun, -⟩⟩ := step_cases hmove
      · exact absurd ((State.reportHalted_mode s).trans hm) hleft
      · exact absurd hm hrun
      · exact absurd hm hrun
    | reset => exact .inl rfl
    | load rom =>
      by_cases h : rom.length + 0x200 ≤ 4096
      · exact .inr ⟨rom, rfl, h⟩
      · obtain rfl : (hostLoad rom s).2 = t := Host.Outcome.next.inj hmove
        rw [hostLoad_of_exceeds s (by omega)] at hleft
        exact absurd hm hleft
    | setKey k down => cases hmove; exact absurd hm hleft
    | timerWrite timer b => cases timer <;> cases hmove <;> exact absurd hm hleft
    | timerTick => cases hmove; exact absurd hm hleft
  case load => rw [hostLoad_of_fits s h]; exact ⟨rfl, rfl⟩

/-- Settles O53: a timer write is one update, a tick is two. -/
theorem timerMovesWriteTheTimersOnly : Obligations.TimerMovesWriteTheTimersOnly :=
  ⟨fun b s => ⟨rfl, setDt_unchanged s b, rfl, setSt_unchanged s b⟩, fun s =>
    ⟨tickDown_toNat s.dt, tickDown_toNat s.st, (setDt_unchanged s _).trans (setSt_unchanged _ _)⟩⟩

/-- Settles O54: entry `row * 64 + col` of the rows one after the other is entry `col` of row `row`. -/
theorem readsReturnTimersAndCellsInOrder : Obligations.ReadsReturnTimersAndCellsInOrder := by
  refine ⟨fun s => ⟨rfl, rfl⟩, fun s => ⟨?length, fun row col => ?cell⟩⟩
  case length => rw [hostReadDisplay_eq_flatten, Vector.length_toList]
  case cell =>
    have hrow : (row.val * 64 + col.val) / 64 = row.val := by omega
    have hcol : (row.val * 64 + col.val) % 64 = col.val := by omega
    rw [hostReadDisplay_eq_flatten, Vector.getElem?_toList, Vector.getElem?_flatten, dif_pos (by omega)]
    simp only [hrow, hcol]
    rfl

end Sys2Proof.Machine
end
